-- ==== Sys2Proof/Word.lean ====
section
/-! DEFINITION. Word.lean: the byte, and the containers with one place for each host, each of four like
pins or inputs, and each selectable source. -/

namespace Sys2Proof

/-- A byte on a port (spec 11.1). -/
abbrev Byte := BitVec 8

/-- The three hosts, named after the port each uses (spec 00, Hosts and host sets). -/
inductive HostId
  | a
  | b
  | c
deriving DecidableEq, Repr

/-- The hosts in the order A, B, C (R139 part 5). -/
def HostId.all : List HostId := [.a, .b, .c]

/-- One `α` for each host. -/
structure PerHost (α : Type) where
  a : α
  b : α
  c : α
deriving DecidableEq, Repr

namespace PerHost

variable {α : Type}

/-- The entry of host `h`. -/
def get (v : PerHost α) : HostId → α
  | .a => v.a
  | .b => v.b
  | .c => v.c

/-- `v` with the entry of host `h` replaced. -/
def set (v : PerHost α) (h : HostId) (x : α) : PerHost α :=
  match h with
  | .a => { v with a := x }
  | .b => { v with b := x }
  | .c => { v with c := x }

/-- The same entry for every host. -/
def const (x : α) : PerHost α := ⟨x, x, x⟩

end PerHost

/-- One `α` for each of four like things: EVO0 to EVO3, or CAP0 to CAP3. -/
structure Quad (α : Type) where
  i0 : α
  i1 : α
  i2 : α
  i3 : α
deriving DecidableEq, Repr

namespace Quad

variable {α : Type}

/-- The entry with number `i`. -/
def get (v : Quad α) (i : Fin 4) : α :=
  match i with
  | 0 => v.i0
  | 1 => v.i1
  | 2 => v.i2
  | 3 => v.i3

/-- `v` with the entry with number `i` replaced. -/
def set (v : Quad α) (i : Fin 4) (x : α) : Quad α :=
  match i with
  | 0 => { v with i0 := x }
  | 1 => { v with i1 := x }
  | 2 => { v with i2 := x }
  | 3 => { v with i3 := x }

/-- Every entry changed by `f`. -/
def map {β : Type} (f : α → β) (v : Quad α) : Quad β := ⟨f v.i0, f v.i1, f v.i2, f v.i3⟩

/-- The same entry four times. -/
def const (x : α) : Quad α := ⟨x, x, x, x⟩

/-- The entries in order of their numbers. -/
def toList (v : Quad α) : List α := [v.i0, v.i1, v.i2, v.i3]

end Quad

/-- The numbers 0 to 3 of pins and inputs. -/
def quadIndices : List (Fin 4) := [0, 1, 2, 3]

/-- The selectable sources (R21). LP cannot be selected. -/
inductive Source
  | xo
  | ext
  | rc
deriving DecidableEq, Repr

/-- The sources the supervisor watches for edges (R21, R23). -/
inductive Watched
  | xo
  | ext
deriving DecidableEq, Repr

/-- A watched source as a selectable source. -/
def Watched.source : Watched → Source
  | .xo => .xo
  | .ext => .ext

/-- One `α` for each selectable source. -/
structure PerSource (α : Type) where
  xo : α
  ext : α
  rc : α
deriving DecidableEq, Repr

namespace PerSource

variable {α : Type}

/-- The entry of source `x`. -/
def get (v : PerSource α) : Source → α
  | .xo => v.xo
  | .ext => v.ext
  | .rc => v.rc

/-- `v` with the entry of source `x` replaced. -/
def set (v : PerSource α) (x : Source) (y : α) : PerSource α :=
  match x with
  | .xo => { v with xo := y }
  | .ext => { v with ext := y }
  | .rc => { v with rc := y }

end PerSource

/-- A level of a pin or an input (R179). -/
inductive Level
  | low
  | high
deriving DecidableEq, Repr

/-- The opposite level. -/
def Level.flip : Level → Level
  | .low => .high
  | .high => .low

/-- A timer slot, 0 to 47 (R41). -/
abbrev Slot := Fin 48

/-- An event output pin, EVO0 to EVO3. -/
abbrev PinId := Fin 4

/-- A capture input, CAP0 to CAP3. -/
abbrev CapId := Fin 4

end Sys2Proof
end

