-- ==== Sys2Proof/Syntax.lean ====
section
/-! DEFINITION. Syntax.lean: the commands of the block, one constructor of `Instr` for each row of
spec/opcode_table.json. The payload fields of the 34 host commands stand as received, at their wire widths
(R179, R180): a code or number out of range is answered RANGE by the command's own rule. -/

namespace Sys2Proof

/-- A received time value (R179): seconds in 5 bytes, nanoseconds in 4. -/
structure TimeArg where
  seconds : BitVec 40
  nanoseconds : BitVec 32
deriving DecidableEq, Repr

/-- A received step amount (R179): sign, seconds in 6 bytes, nanoseconds in 4. -/
structure StepArg where
  sign : Byte
  seconds : BitVec 48
  nanoseconds : BitVec 32
deriving DecidableEq, Repr

/-- The payload of ARM (R180). `pinAction` is the pin and the action of the 26-byte form. -/
structure ArmArg where
  slot : Byte
  kind : Byte
  basis : Byte
  when : BitVec 72
  period : BitVec 64
  cls : Byte
  notify : Byte
  tag : BitVec 16
  pinAction : Option (Byte × Byte)
deriving DecidableEq, Repr

/-- The payload of SET_SOURCES (R180): an entry count and three source bytes. -/
structure ListArg where
  count : Byte
  first : Byte
  second : Byte
  third : Byte
deriving DecidableEq, Repr

/-- The 34 commands a request frame can carry (R180), each with its payload fields. -/
inductive Request
  | attach
  | detach
  | status
  | echo (data : List Byte)
  | sessions
  | readTime
  | timeStatus
  | setTime (value : TimeArg)
  | step (amount : StepArg)
  | slew (amount : BitVec 64)
  | setTrim (source : Byte) (trim : BitVec 32)
  | setSources (list : ListArg)
  | sourceStatus
  | claim (lease : BitVec 16)
  | release
  | withdraw
  | authStatus
  | alloc
  | free (slot : Byte)
  | arm (args : ArmArg)
  | cancel (slot : Byte)
  | timerStatus (slot : Byte)
  | take
  | ack
  | peek
  | setThreshold (threshold : Byte)
  | bindPin (pin idle : Byte) (width : BitVec 16)
  | unbindPin (pin : Byte)
  | drivePin (pin action : Byte)
  | pinStatus (pin : Byte)
  | setEdges (input selection : Byte)
  | subscribe (input cls : Byte)
  | unsubscribe (input : Byte)
  | readCapture (which : Byte)
deriving DecidableEq, Repr

/-- What begins a main-reset condition (R173). -/
inductive ResetCause
  /-- VMAIN rises from absence. -/
  | powerUp
  /-- VMAIN falls below 2.7 V. -/
  | brownOut
  /-- RESETn is driven low. -/
  | resetPin
deriving DecidableEq, Repr

/-- The commands of the block. In the 34 host commands `h` is the requesting host, `seq` the sequence number
of its frame; such a row is the whole SEND transaction of that frame (log 3). `levels` are the levels on CAP0
to CAP3 at the event, which an advance of the count samples (R135, log 7). -/
inductive Instr
  /-- POLL (R149). `first` is the first byte shifted in, absent when the select is released before it is
  complete; `more` are the bytes shifted in after it. -/
  | poll (h : HostId) (first : Option Byte) (more : List Byte)
  /-- SEND (R154). `frame` are the bytes shifted in after the kind byte. -/
  | send (h : HostId) (frame : List Byte) (levels : Quad Level)
  /-- FETCH (R151). `more` bytes are clocked after the first. -/
  | fetch (h : HostId) (more : Nat)
  /-- ATTACH (R159). -/
  | attach (h : HostId) (seq : Byte)
  /-- DETACH (R160). -/
  | detach (h : HostId) (seq : Byte)
  /-- STATUS (R161). -/
  | status (h : HostId) (seq : Byte)
  /-- ECHO (R162). -/
  | echo (h : HostId) (seq : Byte) (data : List Byte)
  /-- SESSIONS (R163). -/
  | sessions (h : HostId) (seq : Byte)
  /-- READ_TIME (R8). -/
  | readTime (h : HostId) (seq : Byte)
  /-- TIME_STATUS (R9). -/
  | timeStatus (h : HostId) (seq : Byte)
  /-- SET_TIME (R10 to R12). -/
  | setTime (h : HostId) (seq : Byte) (value : TimeArg)
  /-- STEP (R10, R13, R14). -/
  | step (h : HostId) (seq : Byte) (amount : StepArg)
  /-- SLEW (R10, R16). -/
  | slew (h : HostId) (seq : Byte) (amount : BitVec 64)
  /-- SET_TRIM (R32). -/
  | setTrim (h : HostId) (seq : Byte) (source : Byte) (trim : BitVec 32)
  /-- SET_SOURCES (R33 to R36). -/
  | setSources (h : HostId) (seq : Byte) (list : ListArg) (levels : Quad Level)
  /-- SOURCE_STATUS (R37). -/
  | sourceStatus (h : HostId) (seq : Byte)
  /-- CLAIM (R108). -/
  | claim (h : HostId) (seq : Byte) (lease : BitVec 16)
  /-- RELEASE (R110). -/
  | release (h : HostId) (seq : Byte)
  /-- WITHDRAW (R112). -/
  | withdraw (h : HostId) (seq : Byte)
  /-- AUTH_STATUS (R117). -/
  | authStatus (h : HostId) (seq : Byte)
  /-- ALLOC (R45). -/
  | alloc (h : HostId) (seq : Byte)
  /-- FREE (R56). -/
  | free (h : HostId) (seq : Byte) (slot : Byte)
  /-- ARM (R47 to R52). -/
  | arm (h : HostId) (seq : Byte) (args : ArmArg)
  /-- CANCEL (R54). -/
  | cancel (h : HostId) (seq : Byte) (slot : Byte)
  /-- TIMER_STATUS (R58). -/
  | timerStatus (h : HostId) (seq : Byte) (slot : Byte)
  /-- TAKE (R97). -/
  | take (h : HostId) (seq : Byte)
  /-- ACK (R98). -/
  | ack (h : HostId) (seq : Byte)
  /-- PEEK (R100). -/
  | peek (h : HostId) (seq : Byte)
  /-- SET_THRESHOLD (R99). -/
  | setThreshold (h : HostId) (seq : Byte) (threshold : Byte)
  /-- BIND_PIN (R123). -/
  | bindPin (h : HostId) (seq : Byte) (pin idle : Byte) (width : BitVec 16)
  /-- UNBIND_PIN (R124). -/
  | unbindPin (h : HostId) (seq : Byte) (pin : Byte)
  /-- DRIVE_PIN (R125). -/
  | drivePin (h : HostId) (seq : Byte) (pin action : Byte)
  /-- PIN_STATUS (R126). -/
  | pinStatus (h : HostId) (seq : Byte) (pin : Byte)
  /-- SET_EDGES (R137). -/
  | setEdges (h : HostId) (seq : Byte) (input selection : Byte)
  /-- SUBSCRIBE (R142). -/
  | subscribe (h : HostId) (seq : Byte) (input cls : Byte)
  /-- UNSUBSCRIBE (R143). -/
  | unsubscribe (h : HostId) (seq : Byte) (input : Byte)
  /-- READ_CAPTURE (R144). -/
  | readCapture (h : HostId) (seq : Byte) (which : Byte)
  /-- ADVANCE (R2): one cycle of the source that drives the count. -/
  | advance (levels : Quad Level)
  /-- EXPIRY (R67) of the timer at the head of the deadline queue. -/
  | expiry
  /-- PULSE_END (R129). -/
  | pulseEnd (pin : PinId)
  /-- CAPTURE (R139) of the oldest accepted edge whose capture is yet to be taken. -/
  | capture
  /-- LEASE_EXPIRY (R113). -/
  | leaseExpiry
  /-- RC_CYCLE (R22). -/
  | rcCycle
  /-- SOURCE_EDGE (R23). -/
  | sourceEdge (source : Watched)
  /-- SOURCE_LOSS (R24, R28). -/
  | sourceLoss (source : Watched) (levels : Quad Level)
  /-- QUALIFICATION (R25). -/
  | qualification (source : Watched)
  /-- HOLD_OFF_END (R29). -/
  | holdOffEnd (source : Watched)
  /-- WAIT_TIMEOUT (R35). -/
  | waitTimeout
  /-- HRST_ASSERT (R164). -/
  | hrstAssert (h : HostId)
  /-- MAIN_RESET_CONDITION_BEGIN (R173). -/
  | mainResetConditionBegin (cause : ResetCause)
  /-- RESETN_RELEASE (R173). -/
  | resetnRelease
  /-- POWER_UP_DELAY_END (R173). -/
  | powerUpDelayEnd
  /-- VMAIN_LOSS (R176). -/
  | vmainLoss
  /-- LP_CYCLE (R170). -/
  | lpCycle
  /-- RETAINED_STATE_LOSS (R169). -/
  | retainedStateLoss
  /-- COLD_START (R177). -/
  | coldStart
  /-- HRST_RELEASE (R164). -/
  | hrstRelease (h : HostId)
  /-- VMAIN_RISE (R173). -/
  | vmainRise
deriving DecidableEq, Repr

end Sys2Proof
end

