-- ==== Sys2Proof/Decode.lean ====
section
/-! DEFINITION. Decode.lean: the commands that a word spells by the table's bits. No row of
spec/opcode_table.json gives any bits, so no word spells a command. The frames that carry the host commands are
decoded in Machine/Frame.lean. -/

namespace Sys2Proof

/-- The command spelled by the `nbits` bits of `w`: none, since the table gives no row any bits. -/
def decodeTableWord (_nbits _w : Nat) : Option Instr := none

end Sys2Proof
end

