-- ==== Sys2Proof/Config.lean ====
section
/-! DEFINITION. Config.lean: the FREE VALUES, constants without a body for what the spec leaves open. No proof
can see what they are, so a claim that mentions one holds for every value. -/

namespace Sys2Proof.Config

/-- FREE VALUE (log 13, DESIGN CHOICE, safe): the time value that is shown of a point `t` below 0 s 0 ns, to which
a set or step of the count has moved a deadline, a pulse end or a stamp. The spec states none there. It is a time
value in range. -/
opaque timeBelowZero (t : Int) : Fin 1099511627776000000000

/-- FREE VALUE (log 30, DESIGN CHOICE, safe): the 8 bytes of a remaining time of `ns` nanoseconds that a signed
8-byte duration cannot hold (R58, R179). -/
opaque longRemaining (ns : Nat) : BitVec 64

/-- FREE VALUE (log 11, DESIGN CHOICE, safe): whether a SOURCE notice posted at a store that also takes a gap
bridge is stamped with the count after the bridge (R30, R31). -/
opaque storeStampAfterBridge : Bool

/-- FREE VALUE (log 19, DESIGN CHOICE, safe): the code of BIND_PIN as a last action (R121); R179 gives none. -/
opaque bindPinActionCode : Byte

/-- FREE VALUE (log 19, DESIGN CHOICE, safe): the code of the origin DRIVE_PIN of a last action (R121). -/
opaque drivePinOriginCode : Byte

/-- FREE VALUE (log 19, DESIGN CHOICE, safe): the code of the origin BIND_PIN of a last action (R121). -/
opaque bindPinOriginCode : Byte

/-- FREE VALUE (log 19, DESIGN CHOICE, safe): the code of a timer slot as the origin of a last action (R121). -/
opaque slotOriginCode (slot : Slot) : Byte

/-- FREE VALUE (log 19, DESIGN CHOICE, safe): the code by which DRIVE_PIN reports that a pulse was started, or
restarted when `restarted` (R125). -/
opaque pulseStartCode (restarted : Bool) : Byte

end Sys2Proof.Config
end

