-- ==== Sys2Proof/Machine/State.lean ====
section
/-! DEFINITION. Machine/State.lean: everything the spec gives the block, as plain data, and its value after
cold start and main reset. A time value is its whole number of nanoseconds (seconds × 10^9 + nanoseconds; log
17); an amount of time below that, and every elapsed time, is in units of 2^-32 ns (R1). -/

namespace Sys2Proof.Machine

/-! ### Time count (spec 01) -/

/-- Whether the time value is trusted (R6). -/
inductive SetState
  | unset
  | retained
  | set
deriving DecidableEq, Repr

/-- The time count (R1, R6, R16). `heldResidue` is the model's own (log 12): the fraction of a nanosecond, in
2^-32 ns, of the advances taken while the count is held that has not yet been taken off the deadlines. -/
structure Count where
  time : Nat
  residue : Nat
  setState : SetState
  slew : Int
  heldResidue : Nat
deriving DecidableEq, Repr

/-! ### Source supervisor (spec 02) -/

/-- The revert hold-off of a QUALIFIED source (R25). -/
inductive HoldOff
  | running (elapsed : Nat)
  | elapsed
deriving DecidableEq, Repr

/-- The state of XO or EXT (R23). `sinceEdge` is the supervisor time since the last edge (R24). -/
inductive SourceState
  | off
  /-- STARTING, window not running. -/
  | waiting
  /-- STARTING, window running for `elapsed`. -/
  | window (elapsed sinceEdge : Nat)
  | qualified (holdOff : HoldOff) (sinceEdge : Nat)
  | failed
deriving DecidableEq, Repr

/-- A running SET_SOURCES wait: the requesting host and the supervisor time it has run (R35). -/
structure Wait where
  host : HostId
  elapsed : Nat
deriving DecidableEq, Repr

/-- The supervisor (R23, R26, R27, R32, R35, R39). `leaving` is the source being left whose next edge still
gives the count an advance (R30). -/
structure Supervisor where
  xo : SourceState
  ext : SourceState
  list : List Source
  trims : PerSource Int
  selected : Source
  leaving : Option Source
  startUp : Bool
  wait : Option Wait
deriving DecidableEq, Repr

/-! ### Timer pool (spec 03, 04) -/

/-- ONCE, or PERIODIC with its period in nanoseconds (R42). -/
inductive TimerKind
  | once
  | periodic (period : Nat)
deriving DecidableEq, Repr

/-- The timer bases (R42). -/
inductive Basis
  | absolute
  | elapsed
deriving DecidableEq, Repr

/-- The actions of an event output pin (R127, R128). -/
inductive PinAction
  | set
  | clear
  | toggle
  | pulse
deriving DecidableEq, Repr

/-- The pin action of a timer record (R42). -/
structure PinUse where
  pin : PinId
  action : PinAction
deriving DecidableEq, Repr

/-- What an ARMED timer has in the deadline queue: its deadline and arming sequence (R61). The deadline is a point on
the scale of the count; it may lie beyond the greatest time value (R62), and a reached one that a set of the count
has moved may lie below 0 s 0 ns (log 13). -/
structure Arming where
  deadline : Int
  seq : Nat
deriving DecidableEq, Repr

/-- The record of an allocated timer (R42): ARMED while `armed` is present, otherwise IDLE. -/
structure Timer where
  owner : HostId
  armed : Option Arming
  kind : TimerKind
  basis : Basis
  cls : Nat
  notify : Bool
  action : Option PinUse
  tag : BitVec 16
  fire : Nat
  missed : Nat
deriving DecidableEq, Repr

/-- The pool (R41) and the arming sequence counter (R63). A FREE slot holds no record. -/
structure Pool where
  timers : Vector (Option Timer) 48
  nextSeq : Nat
deriving DecidableEq, Repr

/-! ### Notices (spec 05) -/

/-- The kinds of notice (R85). -/
inductive NoticeKind
  | timer
  | capture
  | timeStepped
  | source
  | authGranted
  | authLost
  | authWanted
deriving DecidableEq, Repr

/-- The origin of a notice (R85). -/
inductive Origin
  | slot (slot : Slot)
  | input (input : CapId)
  | host (host : HostId)
deriving DecidableEq, Repr

/-- The cause in a SOURCE notice (R31). -/
inductive Cause
  | loss
  | revert
  | command
deriving DecidableEq, Repr

/-- The detail of a notice (R86): a number, the new source with its cause, or the cause EXPIRED. -/
inductive Detail
  | number (value : Int)
  | source (selected : Source) (cause : Cause)
  | expired
deriving DecidableEq, Repr

/-- The flags of a notice (R85). -/
structure NoticeFlags where
  late : Bool
  holdover : Bool
  retained : Bool
  firstSet : Bool
deriving DecidableEq, Repr

/-- A notice (R85). `count` is its repeat. -/
structure Notice where
  kind : NoticeKind
  cls : Nat
  stamp : Nat
  origin : Option Origin
  tag : Option (BitVec 16)
  count : Nat
  detail : Option Detail
  flags : NoticeFlags
deriving DecidableEq, Repr

/-- What the notice block holds for one host (R87). The queue is in queue order, head first (R88). -/
structure NoticeBox where
  queue : List Notice
  inHand : Option Notice
  threshold : Nat
  drops : Nat
deriving DecidableEq, Repr

/-! ### Time authority (spec 06) -/

/-- A holding: holder, lease length in seconds, lease elapsed in 2^-32 ns (R105). -/
structure Holding where
  host : HostId
  lease : Nat
  elapsed : Nat
deriving DecidableEq, Repr

/-- An entry of the waiting list: the host and the lease it asked for (R105). -/
structure Waiter where
  host : HostId
  lease : Nat
deriving DecidableEq, Repr

/-- The arbiter (R105). -/
structure Authority where
  holding : Option Holding
  waiting : List Waiter
deriving DecidableEq, Repr

/-! ### Event output pins (spec 07) -/

/-- The origin of a pin's last action (R121). -/
inductive ActionOrigin
  | drivePin
  | bindPin
  | slot (slot : Slot)
deriving DecidableEq, Repr

/-- The last action of a pin (R121); the action is absent for BIND_PIN. -/
structure LastAction where
  action : Option PinAction
  origin : ActionOrigin
  time : Nat
deriving DecidableEq, Repr

/-- The record of a bound pin (R121). `width` is in microseconds; the pulse end is a point on the scale of the count,
as a deadline is (R129). -/
structure PinRecord where
  owner : HostId
  idle : Level
  level : Level
  width : Nat
  pulseEnd : Option Int
  last : Option LastAction
deriving DecidableEq, Repr

/-! ### Capture unit (spec 08) -/

/-- The edge selections (R134). -/
inductive EdgeSelection
  | none
  | rise
  | fall
  | both
deriving DecidableEq, Repr

/-- The two edges (R135). -/
inductive Edge
  | falling
  | rising
deriving DecidableEq, Repr

/-- What the capture unit holds for one input (R134). A host is in the subscriber set when it has a class. -/
structure CapInput where
  selection : EdgeSelection
  sampled : Option Level
  spacing : Option Nat
  subscribers : PerHost (Option Nat)
  gaps : PerHost Nat
deriving DecidableEq, Repr

/-- A capture record (R138). -/
structure CapRecord where
  serial : Nat
  input : CapId
  edge : Edge
  stamp : Nat
  source : Source
  holdover : Bool
  retained : Bool
  unset : Bool
  owed : PerHost Bool
deriving DecidableEq, Repr

/-- The model's own (log 16): an edge accepted at an advance, whose capture event is yet to be taken. Its stamp is a
point on the scale of the count. -/
structure SeenEdge where
  input : CapId
  edge : Edge
  stamp : Int
deriving DecidableEq, Repr

/-- The capture unit (R134); the log and the seen edges are oldest first. -/
structure Capture where
  inputs : Quad CapInput
  log : List CapRecord
  serial : Nat
  seen : List SeenEdge
deriving DecidableEq, Repr

/-! ### Host ports (spec 09) -/

/-- The result codes (spec 9.8). -/
inductive Result
  | ok
  | queued
  | fallback
  | revoked
  | fired
  | empty
  | inHand
  | none
  | badCheck
  | badOp
  | badLength
  | notAttached
  | notAuthority
  | notOwner
  | noSlot
  | range
  | notSet
  | state
  | pinTaken
  | inUse
deriving DecidableEq, Repr

/-- An answer frame without its length and check, which follow from the rest (R158). -/
structure Answer where
  op : Byte
  seq : Byte
  result : Result
  payload : List Byte
deriving DecidableEq, Repr

/-- The port states (R148). WORKING carries the opcode and sequence number of the request in progress,
ANSWERED the held answer. -/
inductive PortPhase
  | idle
  | working (op seq : Byte)
  | answered (answer : Answer)
deriving DecidableEq, Repr

/-- The last executed record (R148). -/
structure Executed where
  op : Byte
  seq : Byte
  answer : Answer
deriving DecidableEq, Repr

/-- One host port with its session (R148) and its HRST line (R164). `shifted` is the model's own (log 25): the
bytes shifted out in the last transaction on the port, none when it was ignored. -/
structure Port where
  phase : PortPhase
  record : Option Executed
  refused : Bool
  runt : Bool
  attached : Bool
  hrst : Bool
  shifted : List Byte
deriving DecidableEq, Repr

/-! ### Retained domain and power (spec 10) -/

/-- The retained domain (R168). -/
structure Retained where
  time : Nat
  residue : Nat
  timeSet : Bool
  trims : PerSource Int
  list : List Source
deriving DecidableEq, Repr

/-- VMAIN as R173 and R176 tell its conditions apart. -/
inductive Supply
  /-- The main domain is unsupplied. -/
  | absent
  /-- There, and below 2.7 V: risen from absence and not yet at 2.7 V, or fallen below it. -/
  | low
  /-- At or above 2.7 V, the power-up delay having run for `elapsed`. -/
  | powerUp (elapsed : Nat)
  /-- At or above 2.7 V, the power-up delay over. -/
  | operating
deriving DecidableEq, Repr

/-- VMAIN, whether RESETn is driven low, and whether a main-power absence lasts: from a loss of VMAIN to the main reset
that follows its return (R176). -/
structure Power where
  supply : Supply
  resetLow : Bool
  absence : Bool
deriving DecidableEq, Repr

/-! ### The whole block -/

/-- The state of the block. `retained` is absent while the retained state is lost (R169). `pending` is the
model's own (log 5): the commands waiting, first in, first out. -/
structure State where
  count : Count
  sup : Supervisor
  pool : Pool
  notices : PerHost NoticeBox
  auth : Authority
  pins : Quad (Option PinRecord)
  cap : Capture
  ports : PerHost Port
  retained : Option Retained
  power : Power
  pending : List Instr
deriving DecidableEq, Repr

/-- Why a command stops the machine with a fault: there is no such reason. Every command of the block answers a
next state (spec 9.8: what cannot be carried out is answered with a result code). -/
inductive Fault
deriving DecidableEq, Repr

/-- Why a command has no meaning. -/
inductive Refusal
  /-- Raised by an arm of `exec` whose row has no meaning yet. Safe: nothing is claimed of such a row. -/
  | notModelled (mnemonic : String)
deriving DecidableEq, Repr

/-! ### Values after cold start and main reset -/

/-- The list (XO, RC) and trims 0 of a cold start (R168). -/
def Retained.coldStart : Retained where
  time := 0
  residue := 0
  timeSet := false
  trims := ⟨0, 0, 0⟩
  list := [.xo, .rc]

/-- A notice box after a reset or teardown (R87, R103). -/
def NoticeBox.initial : NoticeBox := ⟨[], none, 5, 0⟩

/-- A capture input after a main reset (R134). -/
def CapInput.initial : CapInput := ⟨.none, none, none, .const none, .const 0⟩

/-- A port after a main reset (R148), its HRST line deasserted (log 22). -/
def Port.initial : Port := ⟨.idle, none, false, false, false, false, []⟩

/-- The block after a cold start and the main reset that follows it (R20, R38, R60, R84, R87, R105, R121, R134,
R148, R168): VMAIN operating, every reset line released (log 22, log 29), no command waiting. -/
def State.reset : State where
  count := ⟨0, 0, .unset, 0, 0⟩
  sup := ⟨.waiting, .off, [.xo, .rc], ⟨0, 0, 0⟩, .rc, none, true, none⟩
  pool := ⟨Vector.replicate 48 none, 0⟩
  notices := .const .initial
  auth := ⟨none, []⟩
  pins := .const none
  cap := ⟨.const .initial, [], 0, []⟩
  ports := .const .initial
  retained := some .coldStart
  power := ⟨.operating, false, false⟩
  pending := []

end Sys2Proof.Machine
end

