-- ==== Sys2Proof/Machine/Units.lean ====
section
/-! DEFINITION. Machine/Units.lean: the units of time, the durations and limits the spec gives, and the
arithmetic of one advance of the count (R2, R17, R22, R170). -/

namespace Sys2Proof.Machine

/-- Parts of one nanosecond: the residue counts steps of 2^-32 ns (R1). -/
def fine : Nat := 4294967296

/-- Nanoseconds in a second. -/
def nsPerSecond : Nat := 1000000000

/-- Seconds run from 0 to 2^40 - 1 (R1). -/
def secondsLimit : Nat := 1099511627776

/-- The greatest time value, 2^40 - 1 s 999,999,999 ns (R4). -/
def maxTime : Nat := secondsLimit * nsPerSecond - 1

/-- The seconds field of a time value. -/
def secondsOf (t : Nat) : Nat := t / nsPerSecond

/-- The nanoseconds field of a time value. -/
def nanosOf (t : Nat) : Nat := t % nsPerSecond

/-- The time value that is shown of a point on the scale of the count; below 0 s 0 ns it is open (log 13). -/
def timeValue (t : Int) : Nat := if 0 ≤ t then t.toNat else (Config.timeBelowZero t).val

/-- What remains from the count `now` to the point `t`, in nanoseconds; 0 once `t` is reached (R58, R126). -/
def remaining (t : Int) (now : Nat) : Nat := (t - now).toNat

/-! ### Durations, in 2^-32 ns -/

/-- Loss detection: 2,000 ns without an edge (R22). -/
def lossLimit : Nat := 2000 * fine

/-- Qualification window: 16 ms (R22). -/
def windowLength : Nat := 16000000 * fine

/-- Revert hold-off: 4 s (R22). -/
def holdOffLength : Nat := 4000000000 * fine

/-- SET_SOURCES wait: 200 ms (R22). -/
def waitLength : Nat := 200000000 * fine

/-- Power-up delay: 2,000,000 ns (R173). -/
def powerUpDelay : Nat := 2000000 * fine

/-- Spacing between accepted edges of an input: 1,000 ns (R136). -/
def spacingLimit : Nat := 1000 * fine

/-- A lease of `seconds` (R107). -/
def leaseLength (seconds : Nat) : Nat := seconds * nsPerSecond * fine

/-! ### Limits -/

/-- The greatest magnitude of a trim (R32). -/
def trimLimit : Int := 50000000

/-- The greatest magnitude of a slew, in nanoseconds (R16). -/
def slewLimit : Int := 999999999

/-- The greatest magnitude of a step, 2^40 s (R10). -/
def stepLimit : Nat := secondsLimit * nsPerSecond

/-- The smallest period, in nanoseconds (R42). -/
def periodMin : Nat := 10000

/-- The greatest period and the greatest delay, in nanoseconds (R42, R49). -/
def durationMax : Nat := 1000000000000000

/-- Timers one host may own (R41). -/
def timersPerHost : Nat := 32

/-- Notices in one queue (R87). -/
def queueLimit : Nat := 16

/-- Records in the capture log (R134). -/
def logLimit : Nat := 32

/-- The limit of the saturating 16-bit counters: fire count, missed count, drop count. -/
def count16 : Nat := 65535

/-- The limit of the saturating 8-bit counters: repeat, gap counters. -/
def count8 : Nat := 255

/-- The greatest arming sequence (R63). -/
def seqMax : Nat := 4294967295

/-- The least number of nanoseconds that a signed 8-byte duration cannot hold (R179). -/
def durationLimit : Nat := 9223372036854775808

/-- TIME_STEPPED details saturate at ±2^62 (R15). -/
def detailLimit : Int := 4611686018427387904

/-- `v` saturated at ±2^62 (R15, R90). -/
def saturateDetail (v : Int) : Int := max (-detailLimit) (min detailLimit v)

/-- One more on a counter that saturates at `limit`. -/
def saturate (limit v : Nat) : Nat := min limit v

/-! ### The advance -/

/-- The nominal period of a source (R2), in 2^-32 ns. -/
def nominalPeriod : Source → Nat
  | .xo => 262144000000
  | .ext => 429496729600
  | .rc => 268435456000

/-- The nominal period of LP, 30,517.578125 ns (R170), in 2^-32 ns. -/
def lpPeriod : Nat := 131072000000000

/-- The slew part of a source, 500 ppm of its nominal period (R2, R17), in 2^-32 ns. -/
def slewPart : Source → Nat
  | .xo => 131072000
  | .ext => 214748364
  | .rc => 134217728

/-- The nominal period times (1 + trim / 10^9), rounded toward zero to 2^-32 ns (R2, R22). -/
def trimmedPeriod (source : Source) (trim : Int) : Nat :=
  (((nominalPeriod source : Int) * (1000000000 + trim)) / 1000000000).toNat

/-- The part of a slew applied at one advance: the slew part with the sign of the remainder, or the whole
remainder when that is less (R17). -/
def appliedSlew (source : Source) (remainder : Int) : Int :=
  if remainder.natAbs < slewPart source then remainder
  else if 0 < remainder then (slewPart source : Int)
  else -(slewPart source : Int)

/-- A running duration raised by `amount`, until it has reached `length` (R22). -/
def runDuration (length amount elapsed : Nat) : Nat :=
  if elapsed < length then elapsed + amount else elapsed

/-- What is left of a duration, in whole units of `unit`, rounded up (R37, R117). -/
def remainingUp (unit length elapsed : Nat) : Nat := (length - elapsed + (unit - 1)) / unit

end Sys2Proof.Machine
end

