-- ==== Sys2Proof/Machine/Ops.lean ====
section
/-! DEFINITION. Machine/Ops.lean: reading and writing the parts of the state by name; every block goes through
these. -/

namespace Sys2Proof.Machine

namespace State

/-- The timer record of a slot; absent for a FREE slot (R42). -/
def timer (s : State) (i : Slot) : Option Timer := s.pool.timers.get i

/-- `s` with the record of slot `i` replaced. -/
def setTimer (s : State) (i : Slot) (t : Option Timer) : State :=
  { s with pool := { s.pool with timers := s.pool.timers.set i.val t i.isLt } }

/-- The notice box of a host (R87). -/
def box (s : State) (h : HostId) : NoticeBox := s.notices.get h

/-- `s` with the notice box of host `h` replaced. -/
def setBox (s : State) (h : HostId) (x : NoticeBox) : State := { s with notices := s.notices.set h x }

/-- The record of a pin; absent while it is unbound (R121). -/
def pin (s : State) (p : PinId) : Option PinRecord := s.pins.get p

/-- `s` with the record of pin `p` replaced. -/
def setPin (s : State) (p : PinId) (x : Option PinRecord) : State := { s with pins := s.pins.set p x }

/-- The state of a capture input (R134). -/
def input (s : State) (i : CapId) : CapInput := s.cap.inputs.get i

/-- `s` with the state of capture input `i` replaced. -/
def setInput (s : State) (i : CapId) (x : CapInput) : State :=
  { s with cap := { s.cap with inputs := s.cap.inputs.set i x } }

/-- The port of a host (R148). -/
def port (s : State) (h : HostId) : Port := s.ports.get h

/-- `s` with the port of host `h` replaced. -/
def setPort (s : State) (h : HostId) (x : Port) : State := { s with ports := s.ports.set h x }

/-- Whether a host's session is ATTACHED (R148). -/
def attached (s : State) (h : HostId) : Bool := (s.port h).attached

/-- The state the supervisor holds for a source; RC counts as QUALIFIED, its hold-off elapsed (R21, R25). -/
def sourceState (s : State) : Source → SourceState
  | .xo => s.sup.xo
  | .ext => s.sup.ext
  | .rc => .qualified .elapsed 0

/-- The state of a watched source. -/
def watched (s : State) : Watched → SourceState
  | .xo => s.sup.xo
  | .ext => s.sup.ext

/-- `s` with the state of a watched source replaced. -/
def setWatched (s : State) (w : Watched) (x : SourceState) : State :=
  match w with
  | .xo => { s with sup := { s.sup with xo := x } }
  | .ext => { s with sup := { s.sup with ext := x } }

/-- Whether the main domain runs: VMAIN operating and RESETn released, so that no main-reset condition holds
(R173). -/
def running (s : State) : Bool := s.power.supply = .operating ∧ s.power.resetLow = false

end State

/-- A slot number as a `Slot`, for the lists of slots. -/
def allSlots : List Slot := List.finRange 48

/-- Every record of the pool changed by `f`. -/
def mapTimers (f : Option Timer → Option Timer) (p : Pool) : Pool :=
  { p with timers := ⟨⟨p.timers.toArray.toList.map f⟩, by simp⟩ }

/-- The hosts for which `p` holds, in the order A, B, C. -/
def hostsWhere (p : HostId → Bool) : List HostId := HostId.all.filter p

/-- Slots whose owner is `h` (R41). -/
def allocationCount (s : State) (h : HostId) : Nat :=
  (allSlots.filter fun i => (s.timer i).any fun t => t.owner = h).length

/-- FREE slots (R41). -/
def freeCount (s : State) : Nat := (allSlots.filter fun i => (s.timer i).isNone).length

/-- The lowest-numbered FREE slot (R45). -/
def lowestFree (s : State) : Option Slot := allSlots.find? fun i => (s.timer i).isNone

/-- The answer a command gives: a result and its payload (R158). -/
structure Reply where
  result : Result
  payload : List Byte
deriving DecidableEq, Repr

/-- An answer without payload. -/
def Reply.bare (r : Result) : Reply := ⟨r, []⟩

/-- The answer OK with its fields (R181). -/
def Reply.okWith (fs : List Byte) : Reply := ⟨.ok, fs⟩

/-- Who holds the time authority (R105). -/
def holder (s : State) : Option HostId := s.auth.holding.map (·.host)

end Sys2Proof.Machine
end

