-- ==== Sys2Proof/Machine/Flags.lean ====
section
/-! DEFINITION. Machine/Flags.lean: what is computed from the state and seen outside: holdover, the flags of
notices and captures, the status byte, the interrupt lines, the event output pins. -/

namespace Sys2Proof.Machine

/-- The effective list: the stored list, followed by RC when it does not name RC (R26). -/
def effectiveList (l : List Source) : List Source := if .rc ∈ l then l else l ++ [.rc]

/-- Whether `x` comes before `y` in the effective list (R26). -/
def standsEarlier (l : List Source) (x y : Source) : Bool :=
  (effectiveList l).idxOf x < (effectiveList l).idxOf y

/-- Whether a source may be selected (R23). -/
def SourceState.isQualified : SourceState → Bool
  | .qualified _ _ => true
  | _ => false

/-- Whether a source is QUALIFIED with its hold-off elapsed (R25). -/
def SourceState.holdOffElapsed : SourceState → Bool
  | .qualified .elapsed _ => true
  | _ => false

/-- The supervisor time since the last edge of a source, while it is measured (R24). -/
def SourceState.sinceEdge : SourceState → Option Nat
  | .window _ m => some m
  | .qualified _ m => some m
  | _ => none

/-- The holdover indication: the selected source is not the head of the list (R7, R26). -/
def holdover (s : State) : Bool := s.sup.list.head? ≠ some s.sup.selected

/-- Whether the XO oscillator is powered: while the list names XO (R21, R23), but not in a main-power absence, which
lasts to the main reset after VMAIN's return (R176). Between those the main-domain list is lost; that XO stays stopped
until the main reset powers it, whatever the retained list names, and that a cold start in a brown-out powers it, is
log 31. -/
def xoPowered (s : State) : Bool := s.power.absence = false ∧ s.sup.xo ≠ .off

/-- The HOLDOVER and RETAINED flags as the condition of the count gives them (R7, R85). -/
def conditionFlags (s : State) : NoticeFlags := ⟨false, holdover s, s.count.setState = .retained, false⟩

/-- A level of an interrupt line; while VMAIN is absent the line is not driven (R101). -/
inductive LineLevel
  | asserted
  | deasserted
  | notDriven
deriving DecidableEq, Repr

/-- IRQx is asserted exactly when no main-reset condition holds, host x is attached and its queue holds a
notice whose class is at least its threshold (R102). -/
def irqAsserted (s : State) (h : HostId) : Bool :=
  s.running && s.attached h && (s.box h).queue.any fun n => (s.box h).threshold ≤ n.cls

/-- The interrupt line of a host (R101, R102, R176). -/
def irqLine (s : State) (h : HostId) : LineLevel :=
  if s.power.supply = .absent then .notDriven else if irqAsserted s h then .asserted else .deasserted

/-- What stands on an event output pin (R122). -/
inductive PinOutput
  | driven (level : Level)
  | pulledDown
  | notDriven
deriving DecidableEq, Repr

/-- The event output pin (R122, R176). -/
def pinOutput (s : State) (p : PinId) : PinOutput :=
  if s.power.supply = .absent then .notDriven
  else if s.running then
    match s.pin p with
    | some r => .driven r.level
    | none => .pulledDown
  else .pulledDown

/-- What stands on a data out line (R178). -/
inductive DataOut
  /-- The part drives it with the bytes it shifts out. -/
  | driven
  | highImpedance
  /-- The main domain is unsupplied. -/
  | notDriven
deriving DecidableEq, Repr

/-- Whether port `h` takes transactions: the main domain runs and HRSTx is not asserted (R149, R164, R173). -/
def portOpen (s : State) (h : HostId) : Bool := s.running && !(s.port h).hrst

/-- The data out line of port `h` while its select is released or asserted (R178): driven only in a transaction that
the port takes, at high impedance while HRSTx is asserted (R149, R164) and while a main-reset condition holds (R173),
not driven while VMAIN is absent (R167, R176). -/
def dataOut (s : State) (h : HostId) (selected : Bool) : DataOut :=
  if s.power.supply = .absent then .notDriven
  else if selected && portOpen s h then .driven
  else .highImpedance

/-- Bits 1 and 0 of the status byte (R178). -/
def phaseBits : PortPhase → Byte
  | .idle => 0
  | .working _ _ => 1
  | .answered _ => 2

/-- The status byte of a port (R150, R178). -/
def statusByte (s : State) (h : HostId) : Byte :=
  let p := s.port h
  let bit (b : Bool) (n : Nat) : Byte := if b then BitVec.ofNat 8 (2 ^ n) else 0
  0x80 ||| bit p.runt 6 ||| bit p.refused 5 ||| bit (!(s.box h).queue.isEmpty) 4 ||| bit (irqAsserted s h) 3
    ||| bit p.attached 2 ||| phaseBits p.phase

/-- The fill byte (R178). -/
def fillByte : Byte := 0xFF

end Sys2Proof.Machine
end

