-- ==== Sys2Proof/Machine/Bytes.lean ====
section
/-! DEFINITION. Machine/Bytes.lean: byte order (R179) and the frame check (R153). -/

namespace Sys2Proof.Machine

/-- The low `n` bytes of `v`, most significant first (R179). -/
def bytesOf : Nat → Nat → List Byte
  | 0, _ => []
  | n + 1, v => BitVec.ofNat 8 (v / 256 ^ n) :: bytesOf n v

/-- The number that `bs` spell, most significant byte first (R179). -/
def numOf (bs : List Byte) : Nat := bs.foldl (fun acc b => acc * 256 + b.toNat) 0

/-- The `n` bytes of a signed number in two's complement (R179). -/
def signedBytes (n : Nat) (v : Int) : List Byte := bytesOf n (BitVec.ofInt (8 * n) v).toNat

/-- The bytes `offset` to `offset + n - 1` of a payload as a number. -/
def fieldAt (payload : List Byte) (offset n : Nat) : Nat := numOf ((payload.drop offset).take n)

/-- The byte at `offset` of a payload. -/
def byteAt (payload : List Byte) (offset : Nat) : Byte := BitVec.ofNat 8 (fieldAt payload offset 1)

/-- One bit entering the check register, generator x^16 + x^12 + x^5 + 1 (R153). -/
def crcShift (r : BitVec 16) : BitVec 16 :=
  if r.msb then (r <<< 1) ^^^ 0x1021#16 else r <<< 1

/-- One byte entering the check register, most significant bit first (R153). -/
def crcByte (r : BitVec 16) (b : Byte) : BitVec 16 :=
  crcShift (crcShift (crcShift (crcShift (crcShift (crcShift (crcShift (crcShift
    (r ^^^ (b.setWidth 16 <<< 8)))))))))

/-- CRC-16 over `bs`, the register starting at all ones, without final inversion (R153). -/
def crc16 (bs : List Byte) : BitVec 16 := bs.foldl crcByte 0xFFFF#16

/-- The two check bytes over `bs`, most significant byte first (R153). -/
def checkBytes (bs : List Byte) : List Byte := bytesOf 2 (crc16 bs).toNat

end Sys2Proof.Machine
end

