-- ==== Sys2Proof/Machine/Operands.lean ====
section
/-! DEFINITION. Machine/Operands.lean: what the fields of a request mean (R179), every code and every range, and
the codes by which answers name things. A field that means nothing is out of range. -/

namespace Sys2Proof.Machine

/-! ### Codes received -/

/-- A slot number, 0 to 47 (R44). -/
def slotOf (b : Byte) : Option Slot :=
  if h : b.toNat < 48 then some ⟨b.toNat, h⟩ else none

/-- A pin, EVO0 to EVO3 (R179). -/
def pinOf (b : Byte) : Option PinId :=
  if h : b.toNat < 4 then some ⟨b.toNat, h⟩ else none

/-- A capture input, CAP0 to CAP3 (R179). -/
def inputOf (b : Byte) : Option CapId :=
  if h : b.toNat < 4 then some ⟨b.toNat, h⟩ else none

/-- What READ_CAPTURE reads: one input, or ANY as `none` (R144, R179). -/
def whichOf (b : Byte) : Option (Option CapId) :=
  if b = 0xFF then some none else (inputOf b).map some

/-- A selectable source; LP is out of range (R179). -/
def sourceOf (b : Byte) : Option Source :=
  if b = 1 then some .xo else if b = 2 then some .ext else if b = 3 then some .rc else none

/-- A yes or no (R179). -/
def yesNoOf (b : Byte) : Option Bool :=
  if b = 0 then some false else if b = 1 then some true else none

/-- A level (R179). -/
def levelOf (b : Byte) : Option Level :=
  if b = 0 then some .low else if b = 1 then some .high else none

/-- A timer basis (R179). -/
def basisOf (b : Byte) : Option Basis :=
  if b = 0 then some .absolute else if b = 1 then some .elapsed else none

/-- A pin action (R179). -/
def actionOf (b : Byte) : Option PinAction :=
  if b = 1 then some .set else if b = 2 then some .clear else if b = 3 then some .toggle
  else if b = 4 then some .pulse else none

/-- An edge selection (R179). -/
def selectionOf (b : Byte) : Option EdgeSelection :=
  if b = 0 then some .none else if b = 1 then some .rise else if b = 2 then some .fall
  else if b = 3 then some .both else none

/-- A class chosen by a host, 0 to 3 (R47, R142). -/
def classOf (b : Byte) : Option Nat := if b.toNat ≤ 3 then some b.toNat else none

/-- A threshold, 0 to 5 (R99). -/
def thresholdOf (b : Byte) : Option Nat := if b.toNat ≤ 5 then some b.toNat else none

/-- A lease, 1 to 600 s (R108). -/
def leaseOf (w : BitVec 16) : Option Nat :=
  if 1 ≤ w.toNat ∧ w.toNat ≤ 600 then some w.toNat else none

/-- A pulse width, 1 to 65,535 µs (R123). -/
def widthOf (w : BitVec 16) : Option Nat := if 1 ≤ w.toNat then some w.toNat else none

/-- A trim, -50,000,000 to +50,000,000 (R32). -/
def trimOf (w : BitVec 32) : Option Int :=
  if -trimLimit ≤ w.toInt ∧ w.toInt ≤ trimLimit then some w.toInt else none

/-- A slew amount, at most 999,999,999 ns in magnitude (R10). -/
def slewOf (w : BitVec 64) : Option Int :=
  if -slewLimit ≤ w.toInt ∧ w.toInt ≤ slewLimit then some w.toInt else none

/-- The time value of a seconds and a nanoseconds field, the latter at most 999,999,999 (R179). -/
def timeValueOf (seconds nanoseconds : Nat) : Option Nat :=
  if seconds < secondsLimit ∧ nanoseconds < nsPerSecond then
    some (seconds * nsPerSecond + nanoseconds)
  else none

/-- A received time value (R10, R179). -/
def timeOf (v : TimeArg) : Option Nat := timeValueOf v.seconds.toNat v.nanoseconds.toNat

/-- A step amount in nanoseconds, at most 2^40 s in magnitude (R10, R179). -/
def amountOf (v : StepArg) : Option Int :=
  let magnitude := v.seconds.toNat * nsPerSecond + v.nanoseconds.toNat
  if v.nanoseconds.toNat < nsPerSecond ∧ magnitude ≤ stepLimit then
    if v.sign = 0 then some (magnitude : Int)
    else if v.sign = 1 then some (-(magnitude : Int))
    else none
  else none

/-- A preference list: 1 to 3 distinct selectable sources; bytes beyond the count are not examined
(R33, R180). -/
def listOf (v : ListArg) : Option (List Source) :=
  let entries := [v.first, v.second, v.third].take v.count.toNat
  if 1 ≤ v.count.toNat ∧ v.count.toNat ≤ 3 then
    match entries.mapM sourceOf with
    | some sources => if sources.Nodup then some sources else none
    | none => none
  else none

/-- The kind of an ARM with its period, which is examined for PERIODIC alone (R47 steps 2 and 3). -/
def timerKindOf (kind : Byte) (period : BitVec 64) : Option TimerKind :=
  if kind = 0 then some .once
  else if kind = 1 then
    if (periodMin : Int) ≤ period.toInt ∧ period.toInt ≤ (durationMax : Int) then
      some (.periodic period.toInt.toNat)
    else none
  else none

/-- The `when` of an ARM (R47 step 4, R180): for ABSOLUTE a time value, for ELAPSED a first byte 0 and a delay
of 0 to 10^15 ns in the last 8 bytes. -/
def whenOf (basis : Basis) (w : BitVec 72) : Option Nat :=
  match basis with
  | .absolute => timeValueOf (w.toNat / 2 ^ 32) (w.toNat % 2 ^ 32)
  | .elapsed => if w.toNat ≤ durationMax then some w.toNat else none

/-- The pin action of an ARM, when one is given (R47 step 5). -/
def pinUseOf : Option (Byte × Byte) → Option (Option PinUse)
  | none => some none
  | some (pin, action) =>
    match pinOf pin, actionOf action with
    | some p, some x => some (some ⟨p, x⟩)
    | _, _ => none

/-- The settings an ARM gives, after steps 2 to 5 of R47. -/
structure ArmSettings where
  kind : TimerKind
  basis : Basis
  when : Nat
  cls : Nat
  notify : Bool
  action : Option PinUse
  tag : BitVec 16
deriving DecidableEq, Repr

/-- Steps 2 to 5 of R47; each of them answers RANGE when it fails. -/
def armSettings (v : ArmArg) : Option ArmSettings := do
  let kind ← timerKindOf v.kind v.period
  let basis ← basisOf v.basis
  let when ← whenOf basis v.when
  let cls ← classOf v.cls
  let notify ← yesNoOf v.notify
  let action ← pinUseOf v.pinAction
  return ⟨kind, basis, when, cls, notify, action, v.tag⟩

/-! ### Codes sent (R179, R181) -/

/-- A host, or none. -/
def hostCode : Option HostId → Byte
  | none => 0
  | some .a => 1
  | some .b => 2
  | some .c => 3

/-- A source. -/
def sourceCode : Source → Byte
  | .xo => 1
  | .ext => 2
  | .rc => 3

/-- A set state. -/
def setStateCode : SetState → Byte
  | .unset => 0
  | .retained => 1
  | .set => 2

/-- A yes or no, a session state, or an answer flag at bit 0. -/
def flagCode (b : Bool) : Byte := if b then 1 else 0

/-- A level. -/
def levelCode : Level → Byte
  | .low => 0
  | .high => 1

/-- The state of an allocated timer. -/
def timerStateCode (armed : Bool) : Byte := if armed then 2 else 1

/-- A timer kind. -/
def kindCode : TimerKind → Byte
  | .once => 0
  | .periodic _ => 1

/-- A basis. -/
def basisCode : Basis → Byte
  | .absolute => 0
  | .elapsed => 1

/-- A pin action. -/
def actionCode : PinAction → Byte
  | .set => 1
  | .clear => 2
  | .toggle => 3
  | .pulse => 4

/-- An edge selection. -/
def selectionCode : EdgeSelection → Byte
  | .none => 0
  | .rise => 1
  | .fall => 2
  | .both => 3

/-- An edge. -/
def edgeCode : Edge → Byte
  | .falling => 0
  | .rising => 1

/-- A source state. -/
def sourceStateCode : SourceState → Byte
  | .off => 0
  | .waiting => 1
  | .window _ _ => 2
  | .qualified _ _ => 3
  | .failed => 4

/-- The cause in a SOURCE notice. -/
def causeCode : Cause → Byte
  | .loss => 1
  | .revert => 2
  | .command => 3

/-- The cause EXPIRED. -/
def expiredCode : Byte := 4

/-- A kind of notice. -/
def noticeKindCode : NoticeKind → Byte
  | .timer => 1
  | .capture => 2
  | .timeStepped => 3
  | .source => 4
  | .authGranted => 5
  | .authLost => 6
  | .authWanted => 7

/-- The origin of a notice: slot, input or host. -/
def originCode : Origin → Byte
  | .slot i => BitVec.ofNat 8 i.val
  | .input i => BitVec.ofNat 8 i.val
  | .host h => hostCode (some h)

/-- The origin of a pin's last action; the spec gives no codes (log 19). -/
def actionOriginCode : ActionOrigin → Byte
  | .drivePin => Config.drivePinOriginCode
  | .bindPin => Config.bindPinOriginCode
  | .slot i => Config.slotOriginCode i

/-- The action of a pin's last action; the spec gives BIND_PIN no code (log 19). -/
def lastActionCode : Option PinAction → Byte
  | some x => actionCode x
  | none => Config.bindPinActionCode

/-- A result code (R181). -/
def resultCode : Result → Byte
  | .ok => 0x00
  | .queued => 0x01
  | .fallback => 0x02
  | .revoked => 0x03
  | .fired => 0x04
  | .empty => 0x05
  | .inHand => 0x06
  | .none => 0x07
  | .badCheck => 0x10
  | .badOp => 0x11
  | .badLength => 0x12
  | .notAttached => 0x13
  | .notAuthority => 0x14
  | .notOwner => 0x20
  | .noSlot => 0x21
  | .range => 0x22
  | .notSet => 0x23
  | .state => 0x24
  | .pinTaken => 0x25
  | .inUse => 0x26

end Sys2Proof.Machine
end

