-- ==== Sys2Proof/WellFormed.lean ====
section
/-! DEFINITION. WellFormed.lean: which terms of `Instr` stand for something the outside can send. Operands out
of range are not ill-formed: the part receives them and answers RANGE. -/

namespace Sys2Proof

/-- A POLL's first byte is no SEND and no FETCH code (R149, R178). -/
def pollFirstOk (first : Option Byte) : Bool :=
  first != some 0xA5 && first != some 0x5A

/-- ECHO accepts 0 to 48 bytes (R156, R180). -/
def echoDataOk (data : List Byte) : Bool := data.length ≤ 48

/-- The checks of every command; every other command is well-formed with all operands. -/
def Instr.wellFormed : Instr → Bool
  | .poll _ first _ => pollFirstOk first
  | .send _ _ _ => true
  | .fetch _ _ => true
  | .attach _ _ => true
  | .detach _ _ => true
  | .status _ _ => true
  | .echo _ _ data => echoDataOk data
  | .sessions _ _ => true
  | .readTime _ _ => true
  | .timeStatus _ _ => true
  | .setTime _ _ _ => true
  | .step _ _ _ => true
  | .slew _ _ _ => true
  | .setTrim _ _ _ _ => true
  | .setSources _ _ _ _ => true
  | .sourceStatus _ _ => true
  | .claim _ _ _ => true
  | .release _ _ => true
  | .withdraw _ _ => true
  | .authStatus _ _ => true
  | .alloc _ _ => true
  | .free _ _ _ => true
  | .arm _ _ _ => true
  | .cancel _ _ _ => true
  | .timerStatus _ _ _ => true
  | .take _ _ => true
  | .ack _ _ => true
  | .peek _ _ => true
  | .setThreshold _ _ _ => true
  | .bindPin _ _ _ _ _ => true
  | .unbindPin _ _ _ => true
  | .drivePin _ _ _ _ => true
  | .pinStatus _ _ _ => true
  | .setEdges _ _ _ _ => true
  | .subscribe _ _ _ _ => true
  | .unsubscribe _ _ _ => true
  | .readCapture _ _ _ => true
  | .advance _ => true
  | .expiry => true
  | .pulseEnd _ => true
  | .capture => true
  | .leaseExpiry => true
  | .rcCycle => true
  | .sourceEdge _ => true
  | .sourceLoss _ _ => true
  | .qualification _ => true
  | .holdOffEnd _ => true
  | .waitTimeout => true
  | .hrstAssert _ => true
  | .mainResetConditionBegin _ => true
  | .resetnRelease => true
  | .powerUpDelayEnd => true
  | .vmainLoss => true
  | .lpCycle => true
  | .retainedStateLoss => true
  | .coldStart => true
  | .hrstRelease _ => true
  | .vmainRise => true

/-- The same check for the request a frame carries. -/
def Request.wellFormed : Request → Bool
  | .echo data => echoDataOk data
  | _ => true

end Sys2Proof
end

