-- ==== Sys2Proof/Machine/Frame.lean ====
section
/-! DEFINITION. Machine/Frame.lean: request frames and answer frames on the wire (R152, R153, R158, R180, R181),
decoded and encoded from the same table. -/

namespace Sys2Proof.Machine

/-! ### Requests -/

/-- The opcode of a command (R180). -/
def opcodeOf : Request → Byte
  | .attach => 0x01
  | .detach => 0x02
  | .status => 0x03
  | .echo _ => 0x04
  | .sessions => 0x05
  | .readTime => 0x10
  | .timeStatus => 0x11
  | .setTime _ => 0x12
  | .step _ => 0x13
  | .slew _ => 0x14
  | .setTrim _ _ => 0x20
  | .setSources _ => 0x21
  | .sourceStatus => 0x22
  | .claim _ => 0x30
  | .release => 0x31
  | .withdraw => 0x32
  | .authStatus => 0x33
  | .alloc => 0x40
  | .free _ => 0x41
  | .arm _ => 0x42
  | .cancel _ => 0x43
  | .timerStatus _ => 0x44
  | .take => 0x50
  | .ack => 0x51
  | .peek => 0x52
  | .setThreshold _ => 0x53
  | .bindPin _ _ _ => 0x60
  | .unbindPin _ => 0x61
  | .drivePin _ _ => 0x62
  | .pinStatus _ => 0x63
  | .setEdges _ _ => 0x70
  | .subscribe _ _ => 0x71
  | .unsubscribe _ => 0x72
  | .readCapture _ => 0x73

/-- The opcodes of the 34 commands (R180). -/
def opcodes : List Byte :=
  [0x01, 0x02, 0x03, 0x04, 0x05, 0x10, 0x11, 0x12, 0x13, 0x14, 0x20, 0x21, 0x22, 0x30, 0x31, 0x32, 0x33]
  ++ [0x40, 0x41, 0x42, 0x43, 0x44, 0x50, 0x51, 0x52, 0x53, 0x60, 0x61, 0x62, 0x63, 0x70, 0x71, 0x72, 0x73]

/-- Whether an opcode names one of the 34 commands (R156 step 1). -/
def knownOpcode (op : Byte) : Bool := opcodes.contains op

/-- The payload of a command, its fields in order without padding (R180). -/
def payloadOf : Request → List Byte
  | .echo data => data
  | .setTime v => bytesOf 5 v.seconds.toNat ++ bytesOf 4 v.nanoseconds.toNat
  | .step v => v.sign :: (bytesOf 6 v.seconds.toNat ++ bytesOf 4 v.nanoseconds.toNat)
  | .slew v => bytesOf 8 v.toNat
  | .setTrim source trim => source :: bytesOf 4 trim.toNat
  | .setSources v => [v.count, v.first, v.second, v.third]
  | .claim lease => bytesOf 2 lease.toNat
  | .free slot => [slot]
  | .arm v =>
    v.slot :: v.kind :: v.basis :: (bytesOf 9 v.when.toNat ++ (bytesOf 8 v.period.toNat ++
      (v.cls :: v.notify :: (bytesOf 2 v.tag.toNat ++
        (match v.pinAction with
          | some (pin, action) => [pin, action]
          | none => [])))))
  | .cancel slot => [slot]
  | .timerStatus slot => [slot]
  | .setThreshold threshold => [threshold]
  | .bindPin pin idle width => pin :: idle :: bytesOf 2 width.toNat
  | .unbindPin pin => [pin]
  | .drivePin pin action => [pin, action]
  | .pinStatus pin => [pin]
  | .setEdges input selection => [input, selection]
  | .subscribe input cls => [input, cls]
  | .unsubscribe input => [input]
  | .readCapture which => [which]
  | .attach | .detach | .status | .sessions | .readTime | .timeStatus | .sourceStatus | .release | .withdraw
  | .authStatus | .alloc | .take | .ack | .peek => []

/-- `r` when the payload has the length `n` that its opcode accepts (R156 step 2). -/
def ofLength (n : Nat) (payload : List Byte) (r : Request) : Option Request :=
  if payload.length = n then some r else none

/-- The fields of an ARM payload; `pinAction` is added by the caller. -/
def armFields (p : List Byte) (pinAction : Option (Byte × Byte)) : Request :=
  .arm ⟨byteAt p 0, byteAt p 1, byteAt p 2, BitVec.ofNat 72 (fieldAt p 3 9), BitVec.ofNat 64 (fieldAt p 12 8),
    byteAt p 20, byteAt p 21, BitVec.ofNat 16 (fieldAt p 22 2), pinAction⟩

/-- The command of a known opcode and a payload whose length it accepts (R156 steps 1 and 2, R180). -/
def decodeRequest (op : Byte) (p : List Byte) : Option Request :=
  match op with
  | 0x01 => ofLength 0 p .attach
  | 0x02 => ofLength 0 p .detach
  | 0x03 => ofLength 0 p .status
  | 0x04 => if echoDataOk p then some (.echo p) else none
  | 0x05 => ofLength 0 p .sessions
  | 0x10 => ofLength 0 p .readTime
  | 0x11 => ofLength 0 p .timeStatus
  | 0x12 => ofLength 9 p (.setTime ⟨BitVec.ofNat 40 (fieldAt p 0 5), BitVec.ofNat 32 (fieldAt p 5 4)⟩)
  | 0x13 => ofLength 11 p
      (.step ⟨byteAt p 0, BitVec.ofNat 48 (fieldAt p 1 6), BitVec.ofNat 32 (fieldAt p 7 4)⟩)
  | 0x14 => ofLength 8 p (.slew (BitVec.ofNat 64 (fieldAt p 0 8)))
  | 0x20 => ofLength 5 p (.setTrim (byteAt p 0) (BitVec.ofNat 32 (fieldAt p 1 4)))
  | 0x21 => ofLength 4 p (.setSources ⟨byteAt p 0, byteAt p 1, byteAt p 2, byteAt p 3⟩)
  | 0x22 => ofLength 0 p .sourceStatus
  | 0x30 => ofLength 2 p (.claim (BitVec.ofNat 16 (fieldAt p 0 2)))
  | 0x31 => ofLength 0 p .release
  | 0x32 => ofLength 0 p .withdraw
  | 0x33 => ofLength 0 p .authStatus
  | 0x40 => ofLength 0 p .alloc
  | 0x41 => ofLength 1 p (.free (byteAt p 0))
  | 0x42 =>
    if p.length = 24 then some (armFields p none)
    else if p.length = 26 then some (armFields p (some (byteAt p 24, byteAt p 25)))
    else none
  | 0x43 => ofLength 1 p (.cancel (byteAt p 0))
  | 0x44 => ofLength 1 p (.timerStatus (byteAt p 0))
  | 0x50 => ofLength 0 p .take
  | 0x51 => ofLength 0 p .ack
  | 0x52 => ofLength 0 p .peek
  | 0x53 => ofLength 1 p (.setThreshold (byteAt p 0))
  | 0x60 => ofLength 4 p (.bindPin (byteAt p 0) (byteAt p 1) (BitVec.ofNat 16 (fieldAt p 2 2)))
  | 0x61 => ofLength 1 p (.unbindPin (byteAt p 0))
  | 0x62 => ofLength 2 p (.drivePin (byteAt p 0) (byteAt p 1))
  | 0x63 => ofLength 1 p (.pinStatus (byteAt p 0))
  | 0x70 => ofLength 2 p (.setEdges (byteAt p 0) (byteAt p 1))
  | 0x71 => ofLength 2 p (.subscribe (byteAt p 0) (byteAt p 1))
  | 0x72 => ofLength 1 p (.unsubscribe (byteAt p 0))
  | 0x73 => ofLength 1 p (.readCapture (byteAt p 0))
  | _ => none

/-- A request frame as received (R152): header, payload, and the two check bytes as a number. -/
structure Frame where
  op : Byte
  seq : Byte
  payload : List Byte
  check : BitVec 16
deriving DecidableEq, Repr

/-- The bytes of a frame that its check covers (R153). -/
def checkedBytes (op seq : Byte) (payload : List Byte) : List Byte :=
  op :: seq :: BitVec.ofNat 8 payload.length :: payload

/-- The frame that `bs` begin with, when all its declared bytes are there; further bytes are ignored (R152). -/
def parseFrame : List Byte → Option Frame
  | op :: seq :: len :: rest =>
    if len.toNat + 2 ≤ rest.length then
      some ⟨op, seq, rest.take len.toNat, BitVec.ofNat 16 (fieldAt rest len.toNat 2)⟩
    else none
  | _ => none

/-- Whether the check bytes received equal the check computed (R153). -/
def Frame.passes (f : Frame) : Bool := f.check = crc16 (checkedBytes f.op f.seq f.payload)

/-- The request frame of a command with a sequence number (R152). -/
def encodeFrame (seq : Byte) (r : Request) : List Byte :=
  let body := checkedBytes (opcodeOf r) seq (payloadOf r)
  body ++ checkBytes body

/-- The bytes of a request frame: header, payload and check (R152). -/
def frameLength (r : Request) : Nat := 3 + (payloadOf r).length + 2

/-! ### Answers -/

/-- A field of an answer: always sent, or possibly absent with its width in bytes (R181). -/
inductive Field
  | always (bytes : List Byte)
  | maybe (width : Nat) (bytes : Option (List Byte))

/-- The bytes of a field; an absent one still occupies its bytes, as 0x00 (R181). -/
def Field.bytes : Field → List Byte
  | .always bs => bs
  | .maybe _ (some bs) => bs
  | .maybe width none => List.replicate width 0

/-- Whether each possibly absent field is present, in order (R181). -/
def presenceBits : List Field → List Bool
  | [] => []
  | .always _ :: fs => presenceBits fs
  | .maybe _ v :: fs => v.isSome :: presenceBits fs

/-- The number whose bit n is the nth of `bits`. -/
def bitsToNat : List Bool → Nat
  | [] => 0
  | b :: bs => b.toNat + 2 * bitsToNat bs

/-- The payload of an answer: the presence byte when a field may be absent, then the fields (R181). -/
def payloadOfFields (fs : List Field) : List Byte :=
  let body := (fs.map Field.bytes).flatten
  match presenceBits fs with
  | [] => body
  | bits => BitVec.ofNat 8 (bitsToNat bits) :: body

/-- The bytes of an answer frame (R158, R181). -/
def answerBytes (x : Answer) : List Byte :=
  let body := x.op :: x.seq :: resultCode x.result :: BitVec.ofNat 8 x.payload.length :: x.payload
  body ++ checkBytes body

/-- The answer that FETCH gives when none is held (R151). -/
def noAnswer : Answer := ⟨0, 0, .none, []⟩

/-- A time value in 9 bytes; beyond the greatest, the greatest (R179). -/
def timeBytes (t : Nat) : List Byte :=
  bytesOf 5 (secondsOf (min t maxTime)) ++ bytesOf 4 (nanosOf (min t maxTime))

/-- A duration in 8 bytes, signed nanoseconds (R179). -/
def durationBytes (v : Int) : List Byte := signedBytes 8 v

/-- A remaining time in 8 bytes (R58, R126); one that a signed duration cannot hold is open (log 30). -/
def remainingBytes (ns : Nat) : List Byte :=
  if ns < durationLimit then durationBytes (ns : Int) else bytesOf 8 (Config.longRemaining ns).toNat

/-- A step amount in 11 bytes; 0 is sent positive (R179, log 20). -/
def amountBytes (v : Int) : List Byte :=
  flagCode (v < 0) :: (bytesOf 6 (v.natAbs / nsPerSecond) ++ bytesOf 4 (v.natAbs % nsPerSecond))

/-- A number in one byte. -/
def byteOf (n : Nat) : List Byte := bytesOf 1 n

/-- A list of sources in 4 bytes (R179). -/
def listBytes (l : List Source) : List Byte :=
  BitVec.ofNat 8 l.length :: ((l.map sourceCode ++ [0, 0, 0]).take 3)

/-- The waiting list in 7 bytes (R179). -/
def waitingBytes (l : List Waiter) : List Byte :=
  BitVec.ofNat 8 l.length ::
    (((l.map fun (w : Waiter) => hostCode (some w.host) :: bytesOf 2 w.lease).flatten ++ List.replicate 6 0).take 6)

/-- The 8 bytes of a detail (R181). -/
def detailBytes : Detail → List Byte
  | .number v => durationBytes v
  | .source x cause => sourceCode x :: causeCode cause :: List.replicate 6 0
  | .expired => expiredCode :: List.replicate 7 0

/-- The 25 bytes of a notice record (R181). -/
def noticeBytes (n : Notice) : List Byte :=
  [noticeKindCode n.kind, BitVec.ofNat 8 n.cls,
    BitVec.ofNat 8 (bitsToNat [n.origin.isSome, n.tag.isSome, n.detail.isSome]),
    BitVec.ofNat 8 (bitsToNat [n.flags.late, n.flags.holdover, n.flags.retained, n.flags.firstSet])]
  ++ timeBytes n.stamp
  ++ Field.bytes (.maybe 1 (n.origin.map fun o => [originCode o]))
  ++ Field.bytes (.maybe 2 (n.tag.map fun x => bytesOf 2 x.toNat))
  ++ byteOf n.count
  ++ Field.bytes (.maybe 8 (n.detail.map detailBytes))

/-- The 15 bytes of a capture record (R181). -/
def captureBytes (r : CapRecord) : List Byte :=
  bytesOf 2 r.serial ++ [BitVec.ofNat 8 r.input.val, edgeCode r.edge] ++ timeBytes r.stamp
  ++ [sourceCode r.source, BitVec.ofNat 8 (bitsToNat [false, r.holdover, r.retained, false, r.unset])]

end Sys2Proof.Machine
end

