-- ==== Sys2Proof/Machine/Notices.lean ====
section
/-! DEFINITION. Machine/Notices.lean: posting to a host's notice queue, merging, eviction and removal (R88 to
R95), and the commands TAKE, ACK, PEEK and SET_THRESHOLD (R97 to R100). -/

namespace Sys2Proof.Machine

/-- The same kind and origin; an absent origin counts as one origin of its kind (R88). -/
def sameKey (x y : Notice) : Bool := x.kind = y.kind ∧ x.origin = y.origin

/-- The flags of `x` or-ed with those of `y` (R90). -/
def orFlags (x y : NoticeFlags) : NoticeFlags :=
  ⟨x.late || y.late, x.holdover || y.holdover, x.retained || y.retained, x.firstSet || y.firstSet⟩

/-- The detail after a merge (R90): for TIME_STEPPED the saturated sum, otherwise that of the new notice. -/
def mergedDetail (kind : NoticeKind) (old new : Option Detail) : Option Detail :=
  match kind, old, new with
  | .timeStepped, some (.number x), some (.number y) => some (.number (saturateDetail (x + y)))
  | .authWanted, old, _ => old
  | _, _, new => new

/-- The queued notice `old` after `new` has merged into it (R90). -/
def mergeNotice (old new : Notice) : Notice :=
  { old with
    count := saturate count8 (old.count + 1)
    flags := orFlags old.flags new.flags
    detail := mergedDetail old.kind old.detail new.detail }

/-- `n` placed after every notice of its class or higher and before every lower one (R91). -/
def insertNotice (n : Notice) (q : List Notice) : List Notice :=
  q.takeWhile (fun x => n.cls ≤ x.cls) ++ n :: q.dropWhile (fun x => n.cls ≤ x.cls)

/-- A notice posted to the box of an attached host: merged, inserted, or evicting or discarded at a full queue
(R89, R92). The last notice of the queue is the one of lowest class and latest posting order. -/
def NoticeBox.post (n : Notice) (x : NoticeBox) : NoticeBox :=
  if x.queue.any (sameKey n) then
    { x with queue := x.queue.map fun y => if sameKey n y then mergeNotice y n else y }
  else if x.queue.length < queueLimit then
    { x with queue := insertNotice n x.queue }
  else
    { x with
      queue :=
        if x.queue.getLast?.any (fun y => y.cls < n.cls) then insertNotice n x.queue.dropLast else x.queue
      drops := saturate count16 (x.drops + 1) }

/-- A notice posted to host `h`; nothing when it is detached (R89). -/
def post (h : HostId) (n : Notice) (s : State) : State :=
  if s.attached h then s.setBox h ((s.box h).post n) else s

/-- A notice posted to every attached host (R86). -/
def postAll (n : Notice) (s : State) : State := post .c n (post .b n (post .a n s))

/-- The TIMER notice of a slot (R68). -/
def isTimerNotice (i : Slot) (n : Notice) : Bool := n.kind = .timer ∧ n.origin = some (.slot i)

/-- The TIMER notice of slot `i` removed from the queue of `h` (R56, R94). -/
def removeTimerNotice (h : HostId) (i : Slot) (s : State) : State :=
  s.setBox h { s.box h with queue := (s.box h).queue.filter fun n => !isTimerNotice i n }

/-! ### Commands -/

/-- TAKE (R97). -/
def takeAt (h : HostId) (s : State) : State × Reply :=
  let x := s.box h
  match x.inHand, x.queue with
  | some n, q => (s, ⟨.inHand, noticeBytes n ++ byteOf q.length⟩)
  | none, [] => (s, ⟨.empty, byteOf 0⟩)
  | none, n :: q => (s.setBox h { x with queue := q, inHand := some n }, .okWith (noticeBytes n ++ byteOf q.length))

/-- ACK (R98). -/
def ackAt (h : HostId) (s : State) : State × Reply :=
  let x := s.box h
  match x.inHand with
  | some n =>
    (s.setBox h { x with inHand := none },
      .okWith (payloadOfFields [.always [noticeKindCode n.kind], .maybe 1 (n.origin.map fun o => [originCode o]),
        .always (byteOf x.queue.length)]))
  | none => (s, .bare .state)

/-- PEEK (R100): the drop count is cleared after the fields are taken. -/
def peekAt (h : HostId) (s : State) : State × Reply :=
  let x := s.box h
  (s.setBox h { x with drops := 0 },
    .okWith (payloadOfFields [.always (byteOf x.queue.length),
      .maybe 1 (x.queue.head?.map fun n => [noticeKindCode n.kind]),
      .maybe 1 (x.queue.head?.map fun n => byteOf n.cls),
      .always [flagCode x.inHand.isSome], .always (bytesOf 2 x.drops), .always (byteOf x.threshold)]))

/-- SET_THRESHOLD (R99); the level of the line is sent as 1 when asserted (log 26). -/
def setThresholdAt (h : HostId) (threshold : Byte) (s : State) : State × Reply :=
  match thresholdOf threshold with
  | none => (s, .bare .range)
  | some v =>
    let t := s.setBox h { s.box h with threshold := v }
    (t, .okWith (byteOf (s.box h).threshold ++ [flagCode (irqAsserted t h)]))

end Sys2Proof.Machine
end

