-- ==== Sys2Proof/Machine/CaptureUnit.lean ====
section
/-! DEFINITION. Machine/CaptureUnit.lean: seeing edges (R135, R136), the capture event (R139, R140), and the
commands SET_EDGES, SUBSCRIBE, UNSUBSCRIBE and READ_CAPTURE (R137, R142 to R144). -/

namespace Sys2Proof.Machine

/-! ### Seeing edges -/

/-- Whether an edge selection names an edge (R136). -/
def EdgeSelection.names : EdgeSelection → Edge → Bool
  | .none, _ => false
  | .rise, e => e = .rising
  | .fall, e => e = .falling
  | .both, _ => true

/-- The edge that an input shows when its sample differs from its sampled level; the first sample shows none
(R135). -/
def edgeSeen (sampled : Option Level) (now : Level) : Option Edge :=
  match sampled, now with
  | some .low, .high => some .rising
  | some .high, .low => some .falling
  | _, _ => none

/-- Whether the spacing of an input lets an edge be accepted: absent, or 1,000 ns reached (R136). -/
def spacingOver : Option Nat → Bool
  | none => true
  | some x => spacingLimit ≤ x

/-- The edge of this sample when it is accepted (R136). -/
def CapInput.acceptedEdge (x : CapInput) (now : Level) : Option Edge :=
  (edgeSeen x.sampled now).filter fun e => x.selection.names e && spacingOver x.spacing

/-- An input sampled: an accepted edge starts its spacing at 0, and the sample becomes the sampled level (R135,
R136). -/
def CapInput.sample (x : CapInput) (now : Level) : CapInput :=
  { x with
    sampled := some now
    spacing := if (x.acceptedEdge now).isSome then some 0 else x.spacing }

/-- The spacing raised by an advance, until it has reached 1,000 ns, where it stays (R136). -/
def CapInput.elapse (amount : Nat) (x : CapInput) : CapInput :=
  { x with spacing := x.spacing.map fun e => min spacingLimit (e + amount) }

/-- The accepted edges of this sample, CAP0 first, each stamped with the count (R135, R138). -/
def acceptedEdges (levels : Quad Level) (s : State) : List SeenEdge :=
  quadIndices.filterMap fun i =>
    ((s.input i).acceptedEdge (levels.get i)).map fun e => ⟨i, e, s.count.time⟩

/-- The four inputs sampled after an advance by `amount` (R135, R136). -/
def sampleInputs (amount : Nat) (levels : Quad Level) (s : State) : State :=
  let s1 := { s with cap := { s.cap with inputs := s.cap.inputs.map (CapInput.elapse amount) } }
  { s1 with cap := { s1.cap with
      inputs := ⟨s1.cap.inputs.i0.sample levels.i0, s1.cap.inputs.i1.sample levels.i1,
        s1.cap.inputs.i2.sample levels.i2, s1.cap.inputs.i3.sample levels.i3⟩
      seen := s1.cap.seen ++ acceptedEdges levels s1 } }

/-- The stamps of the edges whose capture is yet to be taken, changed by `f`: a set or step taken before the
capture puts its stamp on the stepped scale (R141). -/
def moveSeen (f : Int → Int) (s : State) : State :=
  { s with cap := { s.cap with seen := s.cap.seen.map fun e => { e with stamp := f e.stamp } } }

/-! ### The capture event -/

/-- The records of input `i` that owe host `h`, oldest first. -/
def owedOn (s : State) (h : HostId) (i : CapId) : List CapRecord :=
  s.cap.log.filter fun r => r.input = i ∧ r.owed.get h

/-- The records of any input that owe host `h`, oldest first. -/
def owedAny (s : State) (h : HostId) : List CapRecord := s.cap.log.filter fun r => r.owed.get h

/-- `1` more on the gap counter of `h` on input `i`, saturating at 255 (R139 part 3). -/
def raiseGap (i : CapId) (h : HostId) (s : State) : State :=
  let x := s.input i
  s.setInput i { x with gaps := x.gaps.set h (saturate count8 (x.gaps.get h + 1)) }

/-- A full log discards its oldest record, and each host it owed loses it (R139 part 3). -/
def makeRoom (s : State) : State :=
  match s.cap.log with
  | [] => s
  | r :: rest =>
    if s.cap.log.length < logLimit then s
    else (hostsWhere r.owed.get).foldl (fun s h => raiseGap r.input h s) { s with cap := { s.cap with log := rest } }

/-- The hosts subscribed to an input (R134). -/
def subscribed (x : CapInput) (h : HostId) : Bool := (x.subscribers.get h).isSome

/-- The owed set of a new record: the subscriber set of its input (R139 part 4). -/
def owedSet (x : CapInput) : PerHost Bool := ⟨subscribed x .a, subscribed x .b, subscribed x .c⟩

/-- A record made and appended to the log (R138, R139 part 4). -/
def makeRecord (e : SeenEdge) (s : State) : State :=
  let r : CapRecord := ⟨s.cap.serial, e.input, e.edge, timeValue e.stamp, s.sup.selected, holdover s,
    s.count.setState = .retained, s.count.setState = .unset, owedSet (s.input e.input)⟩
  { s with cap := { s.cap with log := s.cap.log ++ [r], serial := (s.cap.serial + 1) % 65536 } }

/-- The CAPTURE notice to host `h` for input `i` (R140). -/
def captureNotice (s : State) (i : CapId) (h : HostId) : Notice where
  kind := .capture
  cls := ((s.input i).subscribers.get h).getD 0
  stamp := ((owedOn s h i).head?.map (·.stamp)).getD 0
  origin := some (.input i)
  tag := none
  count := 1
  detail := some (.number (owedOn s h i).length)
  flags := conditionFlags s

/-- CAPTURE: the oldest accepted edge whose capture is yet to be taken becomes a record of every subscriber, or
of none without subscribers (R139). -/
def takeCapture (s : State) : State :=
  match s.cap.seen with
  | [] => s
  | e :: rest =>
    let s1 := { s with cap := { s.cap with seen := rest } }
    let hosts := hostsWhere (subscribed (s.input e.input))
    if hosts.isEmpty then s1
    else
      let s2 := makeRecord e (makeRoom s1)
      hosts.foldl (fun s h => post h (captureNotice s e.input h) s) s2

/-! ### Commands -/

/-- SET_EDGES at the capture unit (R137). -/
def setEdgesAt (input selection : Byte) (s : State) : State × Reply :=
  match inputOf input, selectionOf selection with
  | some i, some x =>
    (s.setInput i { s.input i with selection := x }, .okWith [selectionCode (s.input i).selection])
  | _, _ => (s, .bare .range)

/-- SUBSCRIBE (R142). -/
def subscribeAt (h : HostId) (input cls : Byte) (s : State) : State × Reply :=
  match inputOf input, classOf cls with
  | some i, some c =>
    let x := s.input i
    let old := x.subscribers.get h
    (s.setInput i { x with subscribers := x.subscribers.set h (some c) },
      .okWith (payloadOfFields [.maybe 1 (old.map byteOf)] ++ [flagCode old.isSome]))
  | _, _ => (s, .bare .range)

/-- `h` off the owed sets of the records for which `p` holds, and the records then owed to no one dropped
(R143 parts 2 and 3, R144). -/
def dropOwed (h : HostId) (p : CapRecord → Bool) (log : List CapRecord) : List CapRecord :=
  (log.map fun r => if p r then { r with owed := r.owed.set h false } else r).filter
    fun r => r.owed.a || r.owed.b || r.owed.c

/-- `h` removed from input `i`: its subscription, its owed records and its gap counter (R143). -/
def removeSubscriber (h : HostId) (i : CapId) (s : State) : State :=
  let x := s.input i
  let s1 := s.setInput i { x with subscribers := x.subscribers.set h none, gaps := x.gaps.set h 0 }
  { s1 with cap := { s1.cap with log := dropOwed h (fun r => r.input = i) s1.cap.log } }

/-- UNSUBSCRIBE (R143). -/
def unsubscribeAt (h : HostId) (input : Byte) (s : State) : State × Reply :=
  match inputOf input with
  | none => (s, .bare .range)
  | some i =>
    if subscribed (s.input i) h then
      (removeSubscriber h i s, .okWith (byteOf (owedOn s h i).length ++ byteOf ((s.input i).gaps.get h)))
    else (s, .bare .state)

/-- `h` removed from every input (R146). -/
def removeFromAll (h : HostId) (s : State) : State := quadIndices.foldl (fun s i => removeSubscriber h i s) s

/-- The gap mask and the four gap counters that READ_CAPTURE reports (R144, R181). -/
def gapBytes (h : HostId) (which : Option CapId) (s : State) : List Byte :=
  let reported (i : CapId) : Bool := which.all fun w => w = i
  BitVec.ofNat 8 (bitsToNat (quadIndices.map reported)) ::
    quadIndices.map fun i => if reported i then BitVec.ofNat 8 ((s.input i).gaps.get h) else 0

/-- The gap counters of `h` that were reported cleared (R144). -/
def clearGaps (h : HostId) (which : Option CapId) (s : State) : State :=
  { s with cap := { s.cap with
      inputs :=
        let clear (i : CapId) (x : CapInput) : CapInput :=
          if which.all fun w => w = i then { x with gaps := x.gaps.set h 0 } else x
        ⟨clear 0 s.cap.inputs.i0, clear 1 s.cap.inputs.i1, clear 2 s.cap.inputs.i2, clear 3 s.cap.inputs.i3⟩ } }

/-- `h` off the owed set of the first record for which `p` holds; the record leaves the log when it then owes no
one (R144). -/
def readFirst (h : HostId) (p : CapRecord → Bool) : List CapRecord → List CapRecord
  | [] => []
  | r :: rest =>
    if p r then
      let r := { r with owed := r.owed.set h false }
      if r.owed.a || r.owed.b || r.owed.c then r :: rest else rest
    else r :: readFirst h p rest

/-- Whether a record owes `h` and is of the input asked for, or of any (R144). -/
def readable (h : HostId) (which : Option CapId) (r : CapRecord) : Bool :=
  r.owed.get h && which.all fun w => r.input = w

/-- READ_CAPTURE (R144). -/
def readCaptureAt (h : HostId) (which : Byte) (s : State) : State × Reply :=
  match whichOf which with
  | none => (s, .bare .range)
  | some w =>
    let gaps := gapBytes h w s
    match s.cap.log.find? (readable h w) with
    | none => (clearGaps h w s, ⟨.empty, byteOf 0 ++ byteOf 0 ++ gaps⟩)
    | some r =>
      let t := clearGaps h w { s with cap := { s.cap with log := readFirst h (readable h w) s.cap.log } }
      (t, .okWith (captureBytes r ++ byteOf (owedOn t h r.input).length ++ byteOf (owedAny t h).length ++ gaps))

end Sys2Proof.Machine
end

