-- ==== Sys2Proof/Machine/Pins.lean ====
section
/-! DEFINITION. Machine/Pins.lean: the actions of the event output pins, pulses and pulse ends (R127 to R129),
and the commands BIND_PIN, UNBIND_PIN, DRIVE_PIN and PIN_STATUS (R123 to R126). -/

namespace Sys2Proof.Machine

/-- The record after SET, CLEAR, TOGGLE or PULSE applied at count `now` (R127, R128). -/
def PinRecord.apply (r : PinRecord) (action : PinAction) (origin : ActionOrigin) (now : Nat) : PinRecord :=
  let last := some ⟨some action, origin, now⟩
  match action with
  | .set => { r with level := .high, pulseEnd := none, last := last }
  | .clear => { r with level := .low, pulseEnd := none, last := last }
  | .toggle => { r with level := r.level.flip, pulseEnd := none, last := last }
  | .pulse => { r with level := r.idle.flip, pulseEnd := some ((now + r.width * 1000 : Nat) : Int), last := last }

/-- An action handed to pin `p` (R67 part 2, R125). -/
def applyAction (p : PinId) (action : PinAction) (origin : ActionOrigin) (s : State) : State :=
  match s.pin p with
  | some r => s.setPin p (some (r.apply action origin s.count.time))
  | none => s

/-- Every running pulse end moved by `f` (R129). -/
def movePulseEnds (f : Int → Int) (s : State) : State :=
  { s with pins := s.pins.map fun r => r.map fun r => { r with pulseEnd := r.pulseEnd.map f } }

/-- Whether an ARMED timer carries a pin action that names `p` (R124, R126). -/
def armedNaming (p : PinId) (t : Option Timer) : Bool :=
  t.any fun t => t.armed.isSome && t.action.any fun u => u.pin = p

/-- The slots of the ARMED timers whose pin action names `p`, lowest first (R124, R126). -/
def slotsNaming (s : State) (p : PinId) : List Slot := allSlots.filter fun i => armedNaming p (s.timer i)

/-- The three bytes of a last action and its count (R121, log 19). -/
def lastActionBytes (x : LastAction) : List Byte :=
  lastActionCode x.action :: actionOriginCode x.origin :: timeBytes x.time

/-- The fields of a bound pin's record, in the order of R121. Which of them have a presence bit in BIND_PIN's answer is
the model's choice (log 20): the pulse end and the last action, which a bound pin may lack, and no other. -/
def pinRecordFields (r : PinRecord) : List Field :=
  [.always [hostCode (some r.owner)], .always [levelCode r.idle], .always [levelCode r.level],
    .always (bytesOf 2 r.width),
    .maybe 9 (r.pulseEnd.map fun e => timeBytes (timeValue e)), .maybe 11 (r.last.map lastActionBytes)]

/-- BIND_PIN (R123). -/
def bindPinAt (h : HostId) (pin idle : Byte) (width : BitVec 16) (s : State) : State × Reply :=
  match pinOf pin, levelOf idle, widthOf width with
  | some p, some level, some w =>
    let r : PinRecord := ⟨h, level, level, w, none, some ⟨none, .bindPin, s.count.time⟩⟩
    let bound (already : Bool) : State × Reply :=
      (s.setPin p (some r), .okWith (payloadOfFields (pinRecordFields r) ++ [flagCode already]))
    match s.pin p with
    | none => bound false
    | some old => if old.owner = h then bound true else (s, ⟨.pinTaken, [hostCode (some old.owner)]⟩)
  | _, _, _ => (s, .bare .range)

/-- UNBIND_PIN (R124). -/
def unbindPinAt (h : HostId) (pin : Byte) (s : State) : State × Reply :=
  match pinOf pin with
  | none => (s, .bare .range)
  | some p =>
    match s.pin p with
    | none => (s, .bare .notOwner)
    | some r =>
      if r.owner ≠ h then (s, .bare .notOwner)
      else
        match (slotsNaming s p).filter fun i => (s.timer i).any fun t => t.owner = h with
        | [] => (s.setPin p none, .okWith [levelCode r.level])
        | i :: more => (s, ⟨.inUse, byteOf (more.length + 1) ++ byteOf i.val⟩)

/-- DRIVE_PIN (R125). -/
def drivePinAt (h : HostId) (pin action : Byte) (s : State) : State × Reply :=
  match pinOf pin with
  | none => (s, .bare .range)
  | some p =>
    match s.pin p with
    | none => (s, .bare .notOwner)
    | some r =>
      if r.owner ≠ h then (s, .bare .notOwner)
      else
        match actionOf action with
        | none => (s, .bare .range)
        | some x =>
          let after := r.apply x .drivePin s.count.time
          (applyAction p x .drivePin s, .okWith (payloadOfFields
            [.always [levelCode r.level], .always [levelCode after.level],
              .always [flagCode (r.pulseEnd.isSome && after.pulseEnd.isNone)],
              .maybe 1 (if x = .pulse then some [Config.pulseStartCode r.pulseEnd.isSome] else none),
              .maybe 9 (after.pulseEnd.map fun e => timeBytes (timeValue e))]))

/-- PIN_STATUS (R126). -/
def pinStatusAt (pin : Byte) (s : State) : State × Reply :=
  match pinOf pin with
  | none => (s, .bare .range)
  | some p =>
    let r := s.pin p
    (s, .okWith (payloadOfFields
      [.always [hostCode (r.map (·.owner))], .always [flagCode r.isSome],
        .maybe 1 (r.map fun r => [levelCode r.idle]), .maybe 2 (r.map fun r => bytesOf 2 r.width),
        .maybe 1 (r.map fun r => [levelCode r.level]),
        .always [flagCode (r.any fun r => r.pulseEnd.isSome)],
        .maybe 9 ((r.bind (·.pulseEnd)).map fun e => timeBytes (timeValue e)),
        .maybe 8 ((r.bind (·.pulseEnd)).map fun e => remainingBytes (remaining e s.count.time)),
        .maybe 11 ((r.bind (·.last)).map lastActionBytes),
        .always (byteOf (slotsNaming s p).length)]))

/-- A pulse end: when the count has reached it, the pin returns to its idle level and leaves the pulse
(R129). -/
def endPulse (p : PinId) (s : State) : State :=
  match s.pin p with
  | some r =>
    match r.pulseEnd with
    | some e => if e ≤ s.count.time then s.setPin p (some { r with level := r.idle, pulseEnd := none }) else s
    | none => s
  | none => s

/-- Every pin of `h` unbound (R132). -/
def unbindAll (h : HostId) (s : State) : State :=
  { s with pins := s.pins.map fun r => if r.any fun r => r.owner = h then none else r }

end Sys2Proof.Machine
end

