-- ==== Sys2Proof/Machine/DeadlineQueue.lean ====
section
/-! DEFINITION. Machine/DeadlineQueue.lean: the deadline queue as the ordered view of the ARMED records (R61, R62),
arming sequences (R63), one expiry (R67 to R72), and step recognition (R76 to R80). -/

namespace Sys2Proof.Machine

/-- An entry of the deadline queue (R61). -/
structure Entry where
  slot : Slot
  deadline : Int
  seq : Nat
deriving DecidableEq, Repr

/-- The order of the queue: by deadline, equal deadlines by arming sequence (R61, R62). -/
def Entry.before (x y : Entry) : Bool :=
  x.deadline < y.deadline || (x.deadline = y.deadline && x.seq ≤ y.seq)

/-- The entry of a slot whose timer is ARMED. -/
def entryOf (s : State) (i : Slot) : Option Entry :=
  (s.timer i).bind fun t => t.armed.map fun x => ⟨i, x.deadline, x.seq⟩

/-- An entry placed in a queue that is in order (R64). -/
def insertEntry (x : Entry) : List Entry → List Entry
  | [] => [x]
  | y :: ys => if x.before y then x :: y :: ys else y :: insertEntry x ys

/-- The entries of all ARMED timers, in order of slots. -/
def armedEntries (s : State) : List Entry := allSlots.filterMap (entryOf s)

/-- The deadline queue, head first (R61). -/
def deadlineQueue (s : State) : List Entry := (armedEntries s).foldr insertEntry []

/-! ### Arming sequences (R63) -/

/-- The ARMED records renumbered from 0 in the order of their arming sequences (R63). -/
def renumber (s : State) : State :=
  let rank (n : Nat) : Nat := ((armedEntries s).filter fun x => x.seq < n).length
  let relabel (t : Timer) : Timer := { t with armed := t.armed.map fun x => { x with seq := rank x.seq } }
  { s with pool := { mapTimers (Option.map relabel) s.pool with nextSeq := (armedEntries s).length } }

/-- The next arming sequence, and the state with the counter raised; a counter at its greatest value renumbers
first (R63). -/
def takeSequence (s : State) : Nat × State :=
  let s := if seqMax ≤ s.pool.nextSeq then renumber s else s
  (s.pool.nextSeq, { s with pool := { s.pool with nextSeq := s.pool.nextSeq + 1 } })

/-! ### One expiry (R67) -/

/-- A deadline not later than `now` moved forward by whole periods until it is later, and the number of periods
moved (R51, R71). -/
def catchUp (deadline : Int) (period now : Nat) : Int × Nat :=
  if deadline ≤ now then
    let k := ((now : Int) - deadline).toNat / period + 1
    (deadline + k * period, k)
  else (deadline, 0)

/-- The record of a timer settled at its expiry on `x`, against the count `now` (R70, R71). -/
def Timer.settle (t : Timer) (x : Arming) (now : Nat) : Timer :=
  match t.kind with
  | .once => { t with armed := none }
  | .periodic period =>
    let (next, skipped) := catchUp (x.deadline + period) period now
    let t := { t with missed := saturate count16 (t.missed + skipped) }
    if t.basis = .absolute ∧ maxTime < next then { t with armed := none }
    else { t with armed := some { x with deadline := next } }

/-- The TIMER notice of an expiry; `t` is the record after its fire count has risen (R68). -/
def timerNotice (s : State) (i : Slot) (t : Timer) (stamp : Nat) (late : Bool) : Notice where
  kind := .timer
  cls := t.cls
  stamp := stamp
  origin := some (.slot i)
  tag := some t.tag
  count := 1
  detail := some (.number t.fire)
  flags := { conditionFlags s with late := late }

/-- One expiry of the ARMED timer in slot `i`, settled against `now`: fire count, pin action, notice, settling,
in this order (R67). -/
def expire (i : Slot) (late : Bool) (now : Nat) (s : State) : State :=
  match s.timer i with
  | none => s
  | some t0 =>
    match t0.armed with
    | none => s
    | some x =>
      let t := { t0 with fire := saturate count16 (t0.fire + 1) }
      let s1 := match t.action with
        | some u => applyAction u.pin u.action (.slot i) s
        | none => s
      let s2 := if t.notify then post t.owner (timerNotice s i t (timeValue x.deadline) late) s1 else s1
      s2.setTimer i (some (t.settle x now))

/-- The reached entries expired head by head in queue order, at most `n` of them: an entry is reached when its
deadline is not later than `now` (R76 part 1, R78). -/
def expireReached : Nat → Bool → Nat → State → State
  | 0, _, _, s => s
  | n + 1, late, now, s =>
    match (deadlineQueue s).head? with
    | some x => if x.deadline ≤ now then expireReached n late now (expire x.slot late now s) else s
    | none => s

/-- EXPIRY: the head of the queue, when the count has reached it, is expired, not LATE (R65, R69). -/
def expireHead (s : State) : State := expireReached 1 false s.count.time s

/-- The deadline of every ARMED ELAPSED timer changed by `f` (R49, R77). -/
def moveElapsed (f : Int → Int) (s : State) : State :=
  let move (t : Timer) : Timer :=
    if t.basis = .elapsed then { t with armed := t.armed.map fun x => { x with deadline := f x.deadline } } else t
  { s with pool := mapTimers (Option.map move) s.pool }

/-- Step recognition of a step by `d` from the count `before`; the count of `s` is already stepped (R76). Each
entry is reached at most once in each part, so 48 rounds are enough (R78). -/
def stepRecognition (d : Int) (before : Nat) (s : State) : State :=
  let s1 := expireReached 48 false before s
  let s2 := moveElapsed (· + d) s1
  if 0 < d then expireReached 48 true s2.count.time s2 else s2

end Sys2Proof.Machine
end

