-- ==== Sys2Proof/Machine/TimeCount.lean ====
section
/-! DEFINITION. Machine/TimeCount.lean: the advance of the count (R2 to R5, R17), hand-offs (R19), first set and
step (R11 to R15), and the commands READ_TIME, TIME_STATUS, SET_TIME, STEP and SLEW (R8 to R10, R16). -/

namespace Sys2Proof.Machine

/-! ### Hand-off to the retained domain -/

/-- The count handed to the retained domain (R19, R171). -/
def handOff (s : State) : State :=
  { s with retained := s.retained.map fun r => { r with time := s.count.time, residue := s.count.residue } }

/-- The hand-off of a first set, which also turns the time-set flag on (R19, R171). -/
def handOffFirstSet (s : State) : State :=
  let t := handOff s
  { t with retained := t.retained.map fun r => { r with timeSet := true } }

/-! ### The advance -/

/-- The count with its residue, in 2^-32 ns. -/
def fineCount (s : State) : Nat := s.count.time * fine + s.count.residue

/-- The count at `total`, in 2^-32 ns, within its range; at a whole-second boundary it is handed off (R3, R19). -/
def reachCount (total : Nat) (s : State) : State :=
  let t := { s with count := { s.count with time := total / fine, residue := total % fine, heldResidue := 0 } }
  if secondsOf s.count.time < secondsOf t.count.time then handOff t else t

/-- The count held at its greatest value, short of `total`; what it did not take is taken off the ELAPSED deadlines and
pulse ends, in whole nanoseconds (R4, R49, R73, R129). The model's choices here are log 12: the fraction carried over,
a residue that the hold drops counted with what is taken off, and the deadlines lowered in the advance itself, before
any expiry that it makes due. -/
def holdCount (total : Nat) (s : State) : State :=
  let untaken := s.count.heldResidue + (total - maxTime * fine)
  let lower (d : Int) : Int := d - (untaken / fine : Nat)
  movePulseEnds lower (moveElapsed lower
    { s with count := { s.count with time := maxTime, residue := 0, heldResidue := untaken % fine } })

/-- Where the seconds would be carried to 2^40 (R4), in 2^-32 ns. -/
def countLimit : Nat := (maxTime + 1) * fine

/-- The count moved by an advance of `amount` (R3, R4). -/
def moveCount (amount : Nat) (s : State) : State :=
  if fineCount s + amount < countLimit then reachCount (fineCount s + amount) s
  else holdCount (fineCount s + amount) s

/-- The lease of the holder raised by an advance (R107). -/
def runLease (amount : Nat) (s : State) : State :=
  { s with auth := { s.auth with holding := s.auth.holding.map fun x => { x with elapsed := x.elapsed + amount } } }

/-- One advance of the count by `amount`, with all that runs on elapsed time (R5), and the sampling of the
capture inputs after it (R135). A gap bridge is such an advance (R5). -/
def takeAdvance (amount : Nat) (levels : Quad Level) (s : State) : State :=
  sampleInputs amount levels (runLease amount (moveCount amount s))

/-- The source whose next edge gives the count its next advance: the selected source, or the one being left
(R30). -/
def driver (s : State) : Source := s.sup.leaving.getD s.sup.selected

/-- The part of the slew applied at the next advance (R17). -/
def nextSlew (s : State) : Int := appliedSlew (driver s) s.count.slew

/-- The next advance: the trimmed period of the driving source and the slew part (R2). -/
def nextAdvance (s : State) : Nat :=
  ((trimmedPeriod (driver s) (s.sup.trims.get (driver s)) : Int) + nextSlew s).toNat

/-- ADVANCE: one cycle of the driving source (R2, R17). The edge of a source being left gives its last advance
(R30). -/
def advance (levels : Quad Level) (s : State) : State :=
  takeAdvance (nextAdvance s) levels
    { s with
      count := { s.count with slew := s.count.slew - nextSlew s }
      sup := { s.sup with leaving := none } }

/-! ### Setting and stepping -/

/-- The TIME_STEPPED notice (R15); `before` is the set state just before the set or step. -/
def timeSteppedNotice (s : State) (detail : Int) (before : SetState) (first : Bool) : Notice where
  kind := .timeStepped
  cls := 4
  stamp := s.count.time
  origin := none
  tag := none
  count := 1
  detail := some (.number (saturateDetail detail))
  flags := ⟨false, holdover s, before = .retained, first⟩

/-- The first set of the count (R11): ELAPSED deadlines and pulse ends keep their remaining time (R49, R129). -/
def firstSet (value : Nat) (s : State) : State :=
  let d : Int := (value : Int) - s.count.time
  let s1 := { s with count := { s.count with time := value, residue := 0, setState := .set } }
  let s2 := handOffFirstSet (moveSeen (· + d) (movePulseEnds (· + d) (moveElapsed (· + d) s1)))
  postAll (timeSteppedNotice s2 0 s.count.setState true) s2

/-- A step of the count by `d` (R14), with the residue cleared for SET_TIME (R12). -/
def applyStep (d : Int) (clearResidue : Bool) (s : State) : State :=
  let s1 := { s with count := { s.count with
    time := ((s.count.time : Int) + d).toNat
    residue := if clearResidue then 0 else s.count.residue
    slew := 0
    setState := .set } }
  let s2 := handOff (moveSeen (· + d) (movePulseEnds (· + d) s1))
  if d = 0 then s2
  else stepRecognition d s.count.time (postAll (timeSteppedNotice s2 d s.count.setState false) s2)

/-! ### Commands -/

/-- A slew remainder in signed whole nanoseconds, rounded toward zero (R9, R13, R16). -/
def wholeSlew (s : State) : Int := s.count.slew.tdiv (fine : Int)

/-- READ_TIME (R8). -/
def readTimeAt (s : State) : State × Reply :=
  (s, .okWith (timeBytes s.count.time ++ [setStateCode s.count.setState, flagCode (holdover s)]))

/-- TIME_STATUS (R9). -/
def timeStatusAt (s : State) : State × Reply :=
  (s, .okWith (timeBytes s.count.time ++ [setStateCode s.count.setState, flagCode (holdover s)]
    ++ durationBytes (wholeSlew s)
    ++ [flagCode (s.count.slew ≠ 0), sourceCode s.sup.selected]
    ++ signedBytes 4 (s.sup.trims.get s.sup.selected)))

/-- SET_TIME (R10 to R12). -/
def setTimeAt (v : TimeArg) (s : State) : State × Reply :=
  match timeOf v with
  | none => (s, .bare .range)
  | some value =>
    if s.count.setState = .unset then (firstSet value s, .okWith (amountBytes 0 ++ durationBytes 0))
    else
      let d : Int := (value : Int) - s.count.time
      (applyStep d true s, .okWith (amountBytes d ++ durationBytes (wholeSlew s)))

/-- STEP (R10, R13). -/
def stepAt (v : StepArg) (s : State) : State × Reply :=
  if s.count.setState = .unset then (s, .bare .notSet)
  else
    match amountOf v with
    | none => (s, .bare .range)
    | some d =>
      let after : Int := (s.count.time : Int) + d
      if 0 ≤ after ∧ after ≤ maxTime then
        (applyStep d false s, .okWith (amountBytes d ++ durationBytes (wholeSlew s)))
      else (s, .bare .range)

/-- SLEW (R10, R16). -/
def slewAt (v : BitVec 64) (s : State) : State × Reply :=
  if s.count.setState = .unset then (s, .bare .notSet)
  else
    match slewOf v with
    | none => (s, .bare .range)
    | some x =>
      ({ s with count := { s.count with slew := x * fine } }, .okWith (durationBytes (wholeSlew s)))

end Sys2Proof.Machine
end

