-- ==== Sys2Proof/Machine/Supervisor.lean ====
section
/-! DEFINITION. Machine/Supervisor.lean: source states, loss, qualification, hold-off, selection and the
SET_SOURCES wait (R22 to R36, R39), and the commands SET_TRIM, SET_SOURCES and SOURCE_STATUS (R32, R33, R37). -/

namespace Sys2Proof.Machine

/-! ### Holding an answer at a port -/

/-- The answer of the request in progress held at port `h`: the port goes to ANSWERED and the last executed
record is written (R156, R157). -/
def holdAnswer (h : HostId) (op seq : Byte) (r : Reply) (s : State) : State :=
  let x : Answer := ⟨op, seq, r.result, r.payload⟩
  s.setPort h { s.port h with phase := .answered x, record := some ⟨op, seq, x⟩ }

/-- The running wait ended; with an answer, it is held at the requester's port (R35, R157). -/
def endWait (r : Option Reply) (s : State) : State :=
  match s.sup.wait with
  | none => s
  | some w =>
    let t := { s with sup := { s.sup with wait := none } }
    match r, (t.port w.host).phase with
    | some r, .working op seq => holdAnswer w.host op seq r t
    | _, _ => t

/-! ### Selection -/

/-- The SOURCE notice of a change of selected source already made (R31), RETAINED by R85 (log 15). -/
def sourceNotice (s : State) (cause : Cause) (stamp : Nat) : Notice where
  kind := .source
  cls := 4
  stamp := stamp
  origin := none
  tag := none
  count := 1
  detail := some (.source s.sup.selected cause)
  flags := conditionFlags s

/-- `x` made the selected source by revert, command or start-up: the source that drives the count gives one more
advance at its next edge (R30). A second switch before that edge goes on awaiting it, and the source selected in between
gives no advance (log 9). The change ends the start-up phase (R39). -/
def switchTo (x : Source) (s : State) : State :=
  { s with sup := { s.sup with
      selected := x
      leaving := if driver s = x then none else some (driver s)
      startUp := false } }

/-- A change of selected source with its notice, stamped `stamp` (R27, R31); naming the source already selected is
no change. -/
def selectWithNotice (x : Source) (cause : Cause) (stamp : Nat) (s : State) : State :=
  if s.sup.selected = x then s
  else
    let t := switchTo x s
    postAll (sourceNotice t cause stamp) t

/-- The first QUALIFIED source in effective-list order, RC when there is no other (R28, R34). -/
def firstQualified (s : State) : Source :=
  ((effectiveList s.sup.list).find? fun x => (s.sourceState x).isQualified).getD .rc

/-! ### Loss, qualification and hold-off -/

/-- A window or hold-off raised at an RC cycle. Once a loss is detected (`m`) it runs no further, since the loss
abandons it; a loss detected at this same cycle leaves both ends open (R23 note 1, R29, log 8). -/
def runUnlessLost (length amount m elapsed : Nat) : Nat :=
  if m < lossLimit then runDuration length amount elapsed else elapsed

/-- RC_CYCLE at one watched source: what is measured for it rises by `amount` (R22, R24, R25). -/
def SourceState.run (amount : Nat) : SourceState → SourceState
  | .window e m => .window (runUnlessLost windowLength amount m e) (runDuration lossLimit amount m)
  | .qualified (.running e) m =>
    .qualified (.running (runUnlessLost holdOffLength amount m e)) (runDuration lossLimit amount m)
  | .qualified .elapsed m => .qualified .elapsed (runDuration lossLimit amount m)
  | x => x

/-- RC_CYCLE in the main domain: supervisor time rises by the trimmed period of RC (R22). -/
def superviseCycle (s : State) : State :=
  let amount := trimmedPeriod .rc s.sup.trims.rc
  { s with sup := { s.sup with
      xo := s.sup.xo.run amount
      ext := s.sup.ext.run amount
      wait := s.sup.wait.map fun w => { w with elapsed := runDuration waitLength amount w.elapsed } } }

/-- The measurement restarted by an edge, unless it has already detected a loss (R24, log 8). -/
def restartLoss (m : Nat) : Nat := if m < lossLimit then 0 else m

/-- SOURCE_EDGE at the state of a source (R23). -/
def SourceState.edge : SourceState → SourceState
  | .off => .off
  | .waiting => .window 0 0
  | .window e m => .window e (restartLoss m)
  | .qualified x m => .qualified x (restartLoss m)
  | .failed => .window 0 0

/-- Whether a loss of the source is detected and yet to be taken (R24). -/
def SourceState.lossDue (x : SourceState) : Bool := x.sinceEdge.any fun m => lossLimit ≤ m

/-- Failover, once the selected source is FAILED: the gap bridge `bridge`, the new selection and its notice
(R28). The last advance that another source being left still owes is awaited no more (log 9). -/
def failover (bridge : Nat) (levels : Quad Level) (s : State) : State :=
  let s1 := takeAdvance bridge levels s
  let s2 := { s1 with sup := { s1.sup with selected := firstQualified s1, leaving := none, startUp := false } }
  postAll (sourceNotice s2 .loss s2.count.time) s2

/-- The answer FALLBACK: the selected source and the state of the head at that moment (R35). -/
def fallbackReply (s : State) : Reply :=
  ⟨.fallback, [sourceCode s.sup.selected,
    (s.sup.list.head?.map fun x => sourceStateCode (s.sourceState x)).getD 0]⟩

/-- The answer OK or REVOKED, naming the selected source (R34, R35, R36). -/
def selectedReply (r : Result) (s : State) : Reply := ⟨r, [sourceCode s.sup.selected]⟩

/-- SOURCE_LOSS of a watched source whose loss is detected (R24): it goes FAILED; the selected source fails over
(R28), the head of a running wait ends it with FALLBACK (R35). -/
def loseSource (w : Watched) (levels : Quad Level) (s : State) : State :=
  if (s.watched w).lossDue then
    let s1 := s.setWatched w .failed
    let s2 :=
      if s.sup.selected = w.source then failover ((s.watched w).sinceEdge.getD 0) levels s1
      else if s.sup.leaving = some w.source then { s1 with sup := { s1.sup with leaving := none } }
      else s1
    if s2.sup.list.head? = some w.source then endWait (some (fallbackReply s2)) s2 else s2
  else s

/-- QUALIFICATION of a watched source whose window has run (R25): its hold-off starts, and a wait for it (R35) or
the start-up phase (R39) selects it at once. -/
def qualify (w : Watched) (s : State) : State :=
  match s.watched w with
  | .window e m =>
    if windowLength ≤ e then
      let s1 := s.setWatched w (.qualified (.running 0) m)
      if s.sup.wait.isSome ∧ s.sup.list.head? = some w.source then
        let s2 := selectWithNotice w.source .command s1.count.time s1
        endWait (some (selectedReply .ok s2)) s2
      else if s.sup.startUp ∧ standsEarlier s.sup.list w.source s.sup.selected then switchTo w.source s1
      else s1
    else s
  | _ => s

/-- HOLD_OFF_END of a QUALIFIED source whose hold-off has run: the hold-off is marked elapsed, and a source
earlier than the selected one is selected (R29). -/
def endHoldOff (w : Watched) (s : State) : State :=
  match s.watched w with
  | .qualified (.running e) m =>
    if holdOffLength ≤ e then
      let s1 := s.setWatched w (.qualified .elapsed m)
      if standsEarlier s.sup.list w.source s.sup.selected then
        selectWithNotice w.source .revert s1.count.time s1
      else s1
    else s
  | _ => s

/-- WAIT_TIMEOUT, when the wait has run for 200 ms (R35). -/
def timeOutWait (s : State) : State :=
  match s.sup.wait with
  | some w => if waitLength ≤ w.elapsed then endWait (some (fallbackReply s)) s else s
  | none => s

/-! ### Commands -/

/-- SET_TRIM at the supervisor, with the retained copy (R32, R172). -/
def setTrimAt (source : Byte) (trim : BitVec 32) (s : State) : State × Reply :=
  match sourceOf source, trimOf trim with
  | some x, some v =>
    ({ s with
      sup := { s.sup with trims := s.sup.trims.set x v }
      retained := s.retained.map fun r => { r with trims := r.trims.set x v } },
      .okWith (signedBytes 4 (s.sup.trims.get x)))
  | _, _ => (s, .bare .range)

/-- The state of XO or EXT under a newly stored list (R23, R33). -/
def SourceState.underList (x : SourceState) (named : Bool) : SourceState :=
  if named then (if x = .off then .waiting else x) else .off

/-- A list stored, with its retained copy (R33 parts 1 to 3, R172). The first list stored ends the start-up phase
(R39). -/
def storeList (l : List Source) (s : State) : State :=
  { s with
    sup := { s.sup with
      list := l
      xo := s.sup.xo.underList (.xo ∈ l)
      ext := s.sup.ext.underList (.ext ∈ l)
      startUp := false }
    retained := s.retained.map fun r => { r with list := l } }

/-- The source whose turning OFF by a store asks for a gap bridge: the selected source (R30), else a source being left
that still owes its last advance (log 10). `before` is the state before the store. -/
def bridgedSource (before s : State) : Option Source :=
  if s.sourceState before.sup.selected = .off then some before.sup.selected
  else before.sup.leaving.filter fun x => s.sourceState x = .off

/-- The gap bridge of a store, from the last edge of a source that it takes OFF: no edge of that source is awaited, nor
of one being left (R30, log 9, log 10). `before` is the state before the store. -/
def storeBridge (before : State) (levels : Quad Level) (s : State) : State :=
  match bridgedSource before s with
  | some x =>
    takeAdvance ((before.sourceState x).sinceEdge.getD 0) levels { s with sup := { s.sup with leaving := none } }
  | none => s

/-- What the store selects (R34): nothing when the head is selected already, otherwise the head, or a source that
the second case of a wait selects. -/
def storeSelection (s : State) : Option Source :=
  let earlier (x : Source) : Bool :=
    standsEarlier s.sup.list x s.sup.selected && (s.sourceState x).holdOffElapsed
  match s.sup.list.head? with
  | none => none
  | some head =>
    if head = s.sup.selected then none
    else if (s.sourceState head).isQualified then some head
    else if s.sup.selected ∉ effectiveList s.sup.list then some (firstQualified s)
    else (effectiveList s.sup.list).find? earlier

/-- The selection of a store, after its bridge: a selected source taken OFF gives no further advance (R30, R34). -/
def selectAtStore (before : State) (x : Source) (s : State) : State :=
  let stamp := if Config.storeStampAfterBridge then s.count.time else before.count.time
  let offNow : Bool := s.sourceState before.sup.selected = .off
  let t := switchTo x s
  let u := { t with sup := { t.sup with leaving := if offNow then none else t.sup.leaving } }
  postAll (sourceNotice u .command stamp) u

/-- SET_SOURCES at the supervisor (R33, R34): no reply yet when the wait starts (R35). -/
def setSourcesAt (h : HostId) (v : ListArg) (levels : Quad Level) (s : State) : State × Option Reply :=
  match listOf v with
  | none => (s, some (.bare .range))
  | some l =>
    let s1 := storeList l s
    let s2 := storeBridge s levels s1
    let s3 := match storeSelection s1 with
      | some x => selectAtStore s x s2
      | none => s2
    if l.head? = some s3.sup.selected then (s3, some (selectedReply .ok s3))
    else ({ s3 with sup := { s3.sup with wait := some ⟨h, 0⟩ } }, none)

/-- What is left of a running window, in microseconds (R37). -/
def windowRemaining : SourceState → Option Nat
  | .window e _ => some (remainingUp (1000 * fine) windowLength e)
  | _ => none

/-- What is left of the hold-off of a QUALIFIED source, in milliseconds (R37). -/
def holdOffRemaining : SourceState → Option Nat
  | .qualified (.running e) _ => some (remainingUp (1000000 * fine) holdOffLength e)
  | .qualified .elapsed _ => some 0
  | _ => none

/-- SOURCE_STATUS (R37). -/
def sourceStatusAt (s : State) : State × Reply :=
  (s, .okWith (payloadOfFields
    [.always [sourceStateCode s.sup.xo, sourceStateCode s.sup.ext, sourceStateCode (s.sourceState .rc)],
      .maybe 4 ((windowRemaining s.sup.xo).map (bytesOf 4)), .maybe 4 ((windowRemaining s.sup.ext).map (bytesOf 4)),
      .maybe 4 ((holdOffRemaining s.sup.xo).map (bytesOf 4)), .maybe 4 ((holdOffRemaining s.sup.ext).map (bytesOf 4)),
      .always (listBytes s.sup.list), .always [sourceCode s.sup.selected, flagCode (holdover s)],
      .always (signedBytes 4 s.sup.trims.xo ++ signedBytes 4 s.sup.trims.ext ++ signedBytes 4 s.sup.trims.rc),
      .maybe 5 (s.sup.wait.map fun w =>
        hostCode (some w.host) :: bytesOf 4 (remainingUp (1000000 * fine) waitLength w.elapsed))]))

end Sys2Proof.Machine
end

