-- ==== Sys2Proof/Machine/Arbiter.lean ====
section
/-! DEFINITION. Machine/Arbiter.lean: the time authority: hand-over (R111), lease expiry (R113), and the commands
CLAIM, RELEASE, WITHDRAW and AUTH_STATUS (R108, R110, R112, R117). -/

namespace Sys2Proof.Machine

/-- A notice of the arbiter, stamped with the count (R116). -/
def arbiterNotice (s : State) (kind : NoticeKind) (origin : Option Origin) (detail : Option Detail) : Notice where
  kind := kind
  cls := 4
  stamp := s.count.time
  origin := origin
  tag := none
  count := 1
  detail := detail
  flags := conditionFlags s

/-- AUTH_GRANTED posted to `h` for a lease (R116). -/
def postGranted (h : HostId) (lease : Nat) (s : State) : State :=
  post h (arbiterNotice s .authGranted none (some (.number lease))) s

/-- The grant of the authority to `h` (R108, R111). -/
def grant (h : HostId) (lease : Nat) (s : State) : State :=
  postGranted h lease { s with auth := { s.auth with holding := some ⟨h, lease, 0⟩ } }

/-- Whether the lease of the holder has run out and its expiry is yet to be taken (R107). -/
def leaseOver (x : Holding) : Bool := leaseLength x.lease ≤ x.elapsed

/-- The hand-over at the end of the holding of `old` (R111): the head waiter is granted, or the authority is free,
and a wait that runs for `old` ends with REVOKED, or without an answer at its teardown (R36). -/
def handOver (old : HostId) (torn : Bool) (s : State) : State :=
  let s1 :=
    match s.auth.waiting with
    | [] => { s with auth := ⟨none, []⟩ }
    | w :: rest => grant w.host w.lease { s with auth := { s.auth with waiting := rest } }
  if s1.sup.wait.any fun w => w.host = old then
    endWait (if torn then none else some (selectedReply .revoked s1)) s1
  else s1

/-- LEASE_EXPIRY, when the lease of the holder has run out (R113). -/
def expireLease (s : State) : State :=
  match s.auth.holding with
  | some x =>
    if leaseOver x then
      handOver x.host false (post x.host (arbiterNotice s .authLost none (some .expired)) s)
    else s
  | none => s

/-- The position of `h` in the waiting list, 1 at the head (R108, R117). -/
def position (s : State) (h : HostId) : Option Nat :=
  (s.auth.waiting.findIdx? fun w => w.host = h).map (· + 1)

/-- The lease `h` asked for when it joined the waiting list (R105). -/
def leaseAsked (s : State) (h : HostId) : Nat :=
  ((s.auth.waiting.find? fun w => w.host = h).map (·.lease)).getD 0

/-- The answer QUEUED (R108 note 2); the position is sent in one byte (log 20). -/
def queuedReply (h : HostId) (s : State) : Reply :=
  ⟨.queued, hostCode (holder s) :: (byteOf ((position s h).getD 0) ++ bytesOf 2 (leaseAsked s h))⟩

/-- CLAIM (R108). -/
def claimAt (h : HostId) (lease : BitVec 16) (s : State) : State × Reply :=
  match leaseOf lease with
  | none => (s, .bare .range)
  | some n =>
    let ok : Reply := .okWith (hostCode (some h) :: bytesOf 2 n)
    match s.auth.holding with
    | none => (grant h n s, ok)
    | some x =>
      if x.host = h then ({ s with auth := { s.auth with holding := some ⟨h, n, 0⟩ } }, ok)
      else if (position s h).isSome then (s, queuedReply h s)
      else
        let t := post x.host (arbiterNotice s .authWanted (some (.host h)) none)
          { s with auth := { s.auth with waiting := s.auth.waiting ++ [⟨h, n⟩] } }
        (t, queuedReply h t)

/-- RELEASE (R110). -/
def releaseAt (h : HostId) (s : State) : State × Reply :=
  if holder s = some h then
    let t := handOver h false s
    (t, .okWith [hostCode (holder t)])
  else (s, .bare .notAuthority)

/-- `h` off the waiting list (R112, R119). -/
def leaveWaiting (h : HostId) (s : State) : State :=
  { s with auth := { s.auth with waiting := s.auth.waiting.filter fun w => w.host ≠ h } }

/-- WITHDRAW (R112). -/
def withdrawAt (h : HostId) (s : State) : State × Reply :=
  if (position s h).isSome then
    let t := leaveWaiting h s
    (t, .okWith (waitingBytes t.auth.waiting))
  else (s, .bare .state)

/-- AUTH_STATUS (R117); the caller's position is sent in one byte (log 20). -/
def authStatusAt (h : HostId) (s : State) : State × Reply :=
  (s, .okWith (payloadOfFields
    [.always [hostCode (holder s), flagCode (holder s = some h)],
      .maybe 2 (s.auth.holding.map fun x => bytesOf 2 x.lease),
      .maybe 4 (s.auth.holding.map fun x =>
        bytesOf 4 (remainingUp (1000000 * fine) (leaseLength x.lease) x.elapsed)),
      .always (waitingBytes s.auth.waiting), .maybe 1 ((position s h).map byteOf)]))

end Sys2Proof.Machine
end

