-- ==== Sys2Proof/Machine/Pool.lean ====
section
/-! DEFINITION. Machine/Pool.lean: the commands ALLOC, ARM, CANCEL, FREE and TIMER_STATUS (R44 to R58) and the
pool's part in a teardown (R59). -/

namespace Sys2Proof.Machine

/-- The checks common to the commands that name a slot (R44): the slot and its record, or the answer. -/
def ownedTimer (h : HostId) (slot : Byte) (s : State) : Except Reply (Slot × Timer) :=
  match slotOf slot with
  | none => .error (.bare .range)
  | some i =>
    match s.timer i with
    | none => .error (.bare .notOwner)
    | some t => if t.owner = h then .ok (i, t) else .error (.bare .notOwner)

/-- The record of a slot just allocated to `h` (R45). -/
def Timer.cleared (h : HostId) : Timer := ⟨h, none, .once, .elapsed, 0, false, none, 0, 0, 0⟩

/-- The counts that ALLOC and TIMER_STATUS report (R41). -/
def countBytes (h : HostId) (s : State) : List Byte := byteOf (allocationCount s h) ++ byteOf (freeCount s)

/-- ALLOC (R45). -/
def allocAt (h : HostId) (s : State) : State × Reply :=
  if allocationCount s h = timersPerHost then (s, ⟨.noSlot, countBytes h s⟩)
  else
    match lowestFree s with
    | none => (s, ⟨.noSlot, countBytes h s⟩)
    | some i =>
      let t := s.setTimer i (some (.cleared h))
      (t, .okWith (byteOf i.val ++ countBytes h t))

/-- The first deadline of an arming at count `now`, and the periods it skips; absent when it would lie beyond the
greatest time value (R49, R51, R47 step 8). -/
def firstDeadline (x : ArmSettings) (now : Nat) : Option (Int × Nat) :=
  match x.basis, x.kind with
  | .elapsed, _ => some ((now : Int) + x.when, 0)
  | .absolute, .once => some (x.when, 0)
  | .absolute, .periodic period =>
    let (first, skipped) := catchUp x.when period now
    if first ≤ maxTime then some (first, skipped) else none

/-- The pin that the settings name is bound to `h`, when they name one (R47 step 7). -/
def pinAllowed (h : HostId) (x : ArmSettings) (s : State) : Bool :=
  match x.action with
  | none => true
  | some u => (s.pin u.pin).any fun r => r.owner = h

/-- The arming itself (R48): the old deadline is withdrawn, a new arming sequence taken, the record written, and
a first deadline already reached expires the timer (R50). -/
def armTimer (h : HostId) (i : Slot) (old : Timer) (x : ArmSettings) (first : Int) (skipped : Nat) (s : State) :
    State :=
  let s1 := s.setTimer i (some { old with armed := none })
  let (seq, s2) := takeSequence s1
  let t : Timer := ⟨h, some ⟨first, seq⟩, x.kind, x.basis, x.cls, x.notify, x.action, x.tag, 0,
    saturate count16 skipped⟩
  let s3 := s2.setTimer i (some t)
  if first ≤ s.count.time then expire i (x.basis = .absolute) s.count.time s3 else s3

/-- The fields of the answer to an ARM taken (R52); the flag LATE is bit 1 of the last byte (R181). -/
def armAnswer (i : Slot) (old : Timer) (fired late : Bool) (s : State) : List Byte :=
  let t := (s.timer i).getD old
  payloadOfFields
    [.always [timerStateCode t.armed.isSome], .maybe 9 (t.armed.map fun x => timeBytes (timeValue x.deadline)),
      .always [flagCode fired], .always (bytesOf 2 t.missed), .always (bytesOf 2 old.fire)]
  ++ [if late then 2 else 0]

/-- ARM: the checks of R47 in order, then the arming (R48). -/
def armAt (h : HostId) (args : ArmArg) (s : State) : State × Reply :=
  match ownedTimer h args.slot s with
  | .error r => (s, r)
  | .ok (i, old) =>
    match armSettings args with
    | none => (s, .bare .range)
    | some x =>
      if x.basis = .absolute ∧ s.count.setState = .unset then (s, .bare .notSet)
      else if !pinAllowed h x s then (s, .bare .pinTaken)
      else
        match firstDeadline x s.count.time with
        | none => (s, .bare .range)
        | some (first, skipped) =>
          let fired : Bool := first ≤ s.count.time
          let t := armTimer h i old x first skipped s
          (t, .okWith (armAnswer i old fired (fired && x.basis = .absolute) t))

/-- The fire count and missed count of a record (R54). -/
def runBytes (t : Timer) : List Byte := bytesOf 2 t.fire ++ bytesOf 2 t.missed

/-- CANCEL (R54). -/
def cancelAt (h : HostId) (slot : Byte) (s : State) : State × Reply :=
  match ownedTimer h slot s with
  | .error r => (s, r)
  | .ok (i, t) =>
    if t.armed.isSome then (s.setTimer i (some { t with armed := none }), .okWith (runBytes t))
    else if 0 < t.fire then (s, ⟨.fired, runBytes t⟩)
    else (s, ⟨.state, runBytes t⟩)

/-- FREE (R56); the flag DISCARDED is sent in the last byte (R181). -/
def freeAt (h : HostId) (slot : Byte) (s : State) : State × Reply :=
  match ownedTimer h slot s with
  | .error r => (s, r)
  | .ok (i, t) =>
    let discarded := (s.box h).queue.any (isTimerNotice i)
    ((removeTimerNotice h i s).setTimer i none, .okWith (bytesOf 2 t.fire ++ [flagCode discarded]))

/-- The timer record as TIMER_STATUS sends it, without the counts (R58, R181). -/
def timerBytes (i : Slot) (t : Timer) (now : Nat) : List Byte :=
  let period : Option Nat := match t.kind with
    | .once => none
    | .periodic p => some p
  let deadline := t.armed.map (·.deadline)
  byteOf i.val ++ [hostCode (some t.owner), timerStateCode t.armed.isSome,
    BitVec.ofNat 8 (bitsToNat [period.isSome, t.action.isSome, deadline.isSome, deadline.isSome]),
    kindCode t.kind, basisCode t.basis, BitVec.ofNat 8 t.cls, flagCode t.notify]
  ++ bytesOf 2 t.tag.toNat
  ++ Field.bytes (.maybe 8 (period.map fun (p : Nat) => durationBytes (p : Int)))
  ++ Field.bytes (.maybe 2 (t.action.map fun u => [BitVec.ofNat 8 u.pin.val, actionCode u.action]))
  ++ Field.bytes (.maybe 9 (deadline.map fun d => timeBytes (timeValue d)))
  ++ Field.bytes (.maybe 8 (deadline.map fun d => remainingBytes (remaining d now)))
  ++ runBytes t

/-- TIMER_STATUS (R58). -/
def timerStatusAt (h : HostId) (slot : Byte) (s : State) : State × Reply :=
  match ownedTimer h slot s with
  | .error r => (s, r)
  | .ok (i, t) => (s, .okWith (timerBytes i t s.count.time ++ countBytes h s))

/-- Every slot of `h` freed (R59). -/
def freeAll (h : HostId) (s : State) : State :=
  { s with pool := mapTimers (fun t => if t.any fun t => t.owner = h then none else t) s.pool }

end Sys2Proof.Machine
end

