-- ==== Sys2Proof/Machine/Teardown.lean ====
section
/-! DEFINITION. Machine/Teardown.lean: the teardown of a host (R165) and the main reset (R174). -/

namespace Sys2Proof.Machine

/-- The arbiter's and the supervisor's part in the teardown of `h` (R40, R119). -/
def releaseAuthority (h : HostId) (s : State) : State :=
  let s0 := leaveWaiting h s
  let s1 := if holder s = some h then handOver h true s0 else s0
  if s1.sup.wait.any fun w => w.host = h then endWait none s1 else s1

/-- The teardown of host `h`, one event (R165). The session ends first, so no notice reaches `h`; the releases
touch separate state (log 27). -/
def teardown (h : HostId) (s : State) : State :=
  let s1 := s.setPort h { s.port h with attached := false }
  let s2 := s1.setBox h .initial
  removeFromAll h (unbindAll h (freeAll h (releaseAuthority h s2)))

/-- The main domain at the values of a cold start, which every block's own chapter gives and which are those of a main
reset on the cold-start retained state (R20, R38, R60, R84, R87, R105, R121, R134, R148). The lines, the supplies, the
retained domain and the commands waiting stand as they are. -/
def mainDomainCleared (s : State) : State :=
  { State.reset with
    ports := ⟨{ Port.initial with hrst := s.ports.a.hrst }, { Port.initial with hrst := s.ports.b.hrst },
      { Port.initial with hrst := s.ports.c.hrst }⟩
    retained := s.retained
    power := s.power
    pending := s.pending }

/-- What the main domain takes at a main reset (R174), read from the retained domain: every block's main-reset
values, the count with its set state (R20), the trims, the list and the named sources (R38), the start-up phase
(R39). It ends a main-power absence (R176). The lines, the retained domain and the commands waiting stand as they
are. -/
def mainReset (s : State) : State :=
  let r := s.retained.getD .coldStart
  let started (x : Source) : SourceState := if x ∈ r.list then .waiting else .off
  { mainDomainCleared s with
    count := ⟨r.time, r.residue, if r.timeSet then .retained else .unset, 0, 0⟩
    power := { s.power with absence := false }
    sup := ⟨started .xo, started .ext, r.list, r.trims, .rc, none, r.list.head? ≠ some .rc, none⟩ }

end Sys2Proof.Machine
end

