-- ==== Sys2Proof/Machine/Sessions.lean ====
section
/-! DEFINITION. Machine/Sessions.lean: the commands ATTACH, DETACH, STATUS, ECHO and SESSIONS (R159 to R163). -/

namespace Sys2Proof.Machine

/-- ATTACH (R159). -/
def attachAt (h : HostId) (s : State) : State × Reply :=
  (s.setPort h { s.port h with attached := true }, .okWith [flagCode (s.attached h)])

/-- The number of entries for which `p` holds, in one byte. -/
def countByte {α : Type} (p : α → Bool) (l : List α) : List Byte := byteOf (l.filter p).length

/-- DETACH (R160): what the teardown releases, counted before it. The host to whom the authority was handed is always
sent, as none when the caller did not hold it (log 20). -/
def detachAt (h : HostId) (s : State) : State × Reply :=
  let t := teardown h s
  let held : Bool := holder s = some h
  (t, .okWith (byteOf (allocationCount s h)
    ++ countByte (fun r => r.any fun r => r.owner = h) s.pins.toList
    ++ countByte (fun x => subscribed x h) s.cap.inputs.toList
    ++ [flagCode held, if held then hostCode (holder t) else 0, flagCode (position s h).isSome]))

/-- STATUS (R161). -/
def statusAt (h : HostId) (s : State) : State × Reply :=
  (s, .okWith ([flagCode (s.attached h), setStateCode s.count.setState, hostCode (holder s)]
    ++ byteOf (s.box h).queue.length))

/-- ECHO (R162). -/
def echoAt (data : List Byte) (s : State) : State × Reply := (s, .okWith data)

/-- SESSIONS (R163). -/
def sessionsAt (s : State) : State × Reply :=
  (s, .okWith [flagCode (s.attached .a), flagCode (s.attached .b), flagCode (s.attached .c)])

end Sys2Proof.Machine
end

