-- ==== Sys2Proof/Machine/Ports.lean ====
section
/-! DEFINITION. Machine/Ports.lean: transactions at a port, taking a SEND, retry, validation and dispatch (R149 to
R157). -/

namespace Sys2Proof.Machine

/-! ### Dispatch (R156 step 5) -/

/-- An answer held in the event itself (R157). -/
def atOnce (x : State × Reply) : State × Option Reply := (x.1, some x.2)

/-- A request carried out at its owning block; only a SET_SOURCES whose wait starts has no answer yet (R156,
R157). -/
def carryOut (h : HostId) (levels : Quad Level) (r : Request) (s : State) : State × Option Reply :=
  match r with
  | .attach => atOnce (attachAt h s)
  | .detach => atOnce (detachAt h s)
  | .status => atOnce (statusAt h s)
  | .echo data => atOnce (echoAt data s)
  | .sessions => atOnce (sessionsAt s)
  | .readTime => atOnce (readTimeAt s)
  | .timeStatus => atOnce (timeStatusAt s)
  | .setTime v => atOnce (setTimeAt v s)
  | .step v => atOnce (stepAt v s)
  | .slew v => atOnce (slewAt v s)
  | .setTrim source trim => atOnce (setTrimAt source trim s)
  | .setSources v => setSourcesAt h v levels s
  | .sourceStatus => atOnce (sourceStatusAt s)
  | .claim lease => atOnce (claimAt h lease s)
  | .release => atOnce (releaseAt h s)
  | .withdraw => atOnce (withdrawAt h s)
  | .authStatus => atOnce (authStatusAt h s)
  | .alloc => atOnce (allocAt h s)
  | .free slot => atOnce (freeAt h slot s)
  | .arm v => atOnce (armAt h v s)
  | .cancel slot => atOnce (cancelAt h slot s)
  | .timerStatus slot => atOnce (timerStatusAt h slot s)
  | .take => atOnce (takeAt h s)
  | .ack => atOnce (ackAt h s)
  | .peek => atOnce (peekAt h s)
  | .setThreshold v => atOnce (setThresholdAt h v s)
  | .bindPin pin idle width => atOnce (bindPinAt h pin idle width s)
  | .unbindPin pin => atOnce (unbindPinAt h pin s)
  | .drivePin pin action => atOnce (drivePinAt h pin action s)
  | .pinStatus pin => atOnce (pinStatusAt pin s)
  | .setEdges input selection => atOnce (setEdgesAt input selection s)
  | .subscribe input cls => atOnce (subscribeAt h input cls s)
  | .unsubscribe input => atOnce (unsubscribeAt h input s)
  | .readCapture which => atOnce (readCaptureAt h which s)

/-! ### Validation (R156 steps 2 to 4) -/

/-- The six authority-only commands (R118). -/
def authorityOnly : Request → Bool
  | .setTime _ | .step _ | .slew _ | .setTrim _ _ | .setSources _ | .setEdges _ _ => true
  | _ => false

/-- ATTACH and STATUS are open to a detached host (R156 step 3). -/
def openToDetached : Request → Bool
  | .attach | .status => true
  | _ => false

/-- A request checked in the order of R156 from step 2 on, and carried out. Step 2 can fail here only for an ECHO
row with more than 48 bytes: a frame's other lengths are judged as it is decoded. -/
def validate (h : HostId) (levels : Quad Level) (r : Request) (s : State) : State × Option Reply :=
  if !r.wellFormed then (s, some (.bare .badLength))
  else if !s.attached h && !openToDetached r then (s, some (.bare .notAttached))
  else if authorityOnly r && holder s ≠ some h then (s, some (.bare .notAuthority))
  else carryOut h levels r s

/-! ### Taking a request (R154, R155, R157) -/

/-- Whether a frame is a retry: its opcode and sequence number are those of the last executed record, in ANSWERED
(R154, R155). -/
def retryOf (p : Port) (op seq : Byte) : Option Executed :=
  match p.phase with
  | .answered _ => p.record.filter fun x => x.op = op ∧ x.seq = seq
  | _ => none

/-- A complete frame that passed its check, at port `h` (R154): REFUSED while WORKING, answered from the record
when it is a retry (R155), otherwise taken, validated by `act`, and its answer held (R157). -/
def takeChecked (h : HostId) (op seq : Byte) (act : State → State × Option Reply) (s : State) : State :=
  let p := s.port h
  match p.phase with
  | .working _ _ => s.setPort h { p with refused := true }
  | _ =>
    match retryOf p op seq with
    | some x => s.setPort h { p with phase := .answered x.answer }
    | none =>
      match act (s.setPort h { p with phase := .working op seq }) with
      | (t, some r) => holdAnswer h op seq r t
      | (t, none) => t

/-- What a frame asks for: an opcode that names no command (step 1), a length it does not accept (step 2), or a
request (R156). -/
def validateFrame (h : HostId) (levels : Quad Level) (f : Frame) (s : State) : State × Option Reply :=
  if !knownOpcode f.op then (s, some (.bare .badOp))
  else
    match decodeRequest f.op f.payload with
    | none => (s, some (.bare .badLength))
    | some r => validate h levels r s

/-- The release of the select of a SEND with the bytes `bs` received (R153, R154). -/
def releaseSend (h : HostId) (bs : List Byte) (levels : Quad Level) (s : State) : State :=
  let p := s.port h
  match p.phase with
  | .working _ _ => s.setPort h { p with refused := true }
  | _ =>
    match parseFrame bs with
    | none => s.setPort h { p with runt := true }
    | some f =>
      if f.passes then takeChecked h f.op f.seq (validateFrame h levels f) s
      else s.setPort h { p with phase := .answered ⟨f.op, f.seq, .badCheck, []⟩ }

/-! ### Transactions (R149 to R151, R178) -/

/-- The kinds of transaction (R149). -/
inductive TransactionKind
  | poll
  | send
  | fetch
deriving DecidableEq, Repr

/-- The kind that the first byte of a transaction asks for (R178). -/
def kindOf (first : Byte) : TransactionKind :=
  if first = 0xA5 then .send else if first = 0x5A then .fetch else .poll

/-- A transaction at port `h` whose first byte is complete: the status byte goes out, then `more`, and the REFUSED
and RUNT flags are turned off (R149, R150). -/
def showStatus (h : HostId) (more : List Byte) (s : State) : State :=
  s.setPort h { s.port h with refused := false, runt := false, shifted := statusByte s h :: more }

/-- `n` fill bytes (R178). -/
def fill (n : Nat) : List Byte := List.replicate n fillByte

/-- The bytes a FETCH shifts out after the status byte, of which the first `n` are clocked (R151, R178). -/
def fetchBytes (p : Port) (n : Nat) : List Byte :=
  let frame := answerBytes (match p.phase with
    | .answered x => x
    | _ => noAnswer)
  (frame ++ fill n).take n

/-- A transaction that shifts no whole byte out: one that the port ignores, or one released before its first byte is
complete. Nothing is taken and the flags keep their values (R149, R164). -/
def showNothing (h : HostId) (s : State) : State := s.setPort h { s.port h with shifted := [] }

/-- A transaction at port `h` with the bytes that the host shifts in: the first gives the kind, `more` follow it (R149,
R151, R154). A port that takes no transaction ignores it (R164, R167, R173). -/
def transaction (h : HostId) (first : Byte) (more : List Byte) (levels : Quad Level) (s : State) : State :=
  if portOpen s h then
    match kindOf first with
    | .poll => showStatus h (fill more.length) s
    | .send => releaseSend h more levels (showStatus h (fill more.length) s)
    | .fetch => showStatus h (fetchBytes (s.port h) more.length) s
  else showNothing h s

/-- A host command as the SEND transaction of its frame (log 3): `frameLength` fill bytes go out, and the frame is
taken as complete and checked (R149, R154). -/
def requestRow (h : HostId) (seq : Byte) (r : Request) (levels : Quad Level) (s : State) : State :=
  if portOpen s h then
    takeChecked h (opcodeOf r) seq (validate h levels r) (showStatus h (fill (frameLength r)) s)
  else showNothing h s

/-- The levels given to a command that takes no advance and so samples nothing. -/
def noLevels : Quad Level := .const .low

end Sys2Proof.Machine
end

