-- ==== Sys2Proof/Machine/Events.lean ====
section
/-! DEFINITION. Machine/Events.lean: the meanings of the events inside the main domain. While a main-reset condition
holds the main domain takes no event (R173); an event that is not due where it is given changes nothing (log 4). -/

namespace Sys2Proof.Machine

/-- An event of the main domain, taken while it runs (R173). -/
def whileRunning (f : State → State) (s : State) : State := if s.running then f s else s

/-- ADVANCE (R2). -/
def execAdvance (levels : Quad Level) (s : State) : Host.Outcome State Fault Refusal :=
  .next (whileRunning (advance levels) s)

/-- EXPIRY (R65, R67). -/
def execExpiry (s : State) : Host.Outcome State Fault Refusal := .next (whileRunning expireHead s)

/-- PULSE_END (R129). -/
def execPulseEnd (pin : PinId) (s : State) : Host.Outcome State Fault Refusal :=
  .next (whileRunning (endPulse pin) s)

/-- CAPTURE (R139). -/
def execCapture (s : State) : Host.Outcome State Fault Refusal := .next (whileRunning takeCapture s)

/-- LEASE_EXPIRY (R113). -/
def execLeaseExpiry (s : State) : Host.Outcome State Fault Refusal := .next (whileRunning expireLease s)

/-- RC_CYCLE (R22). While VMAIN stands at or above 2.7 V before the main reset, it times the power-up delay, with
trim 0 (R173). -/
def execRcCycle (s : State) : Host.Outcome State Fault Refusal :=
  .next (match s.power.supply with
    | .powerUp e =>
      { s with power := { s.power with supply := .powerUp (runDuration powerUpDelay (nominalPeriod .rc) e) } }
    | _ => whileRunning superviseCycle s)

/-- SOURCE_EDGE (R23). -/
def execSourceEdge (source : Watched) (s : State) : Host.Outcome State Fault Refusal :=
  .next (whileRunning (fun s => s.setWatched source (s.watched source).edge) s)

/-- SOURCE_LOSS (R24, R28). -/
def execSourceLoss (source : Watched) (levels : Quad Level) (s : State) : Host.Outcome State Fault Refusal :=
  .next (whileRunning (loseSource source levels) s)

/-- QUALIFICATION (R25). -/
def execQualification (source : Watched) (s : State) : Host.Outcome State Fault Refusal :=
  .next (whileRunning (qualify source) s)

/-- HOLD_OFF_END (R29). -/
def execHoldOffEnd (source : Watched) (s : State) : Host.Outcome State Fault Refusal :=
  .next (whileRunning (endHoldOff source) s)

/-- WAIT_TIMEOUT (R35). -/
def execWaitTimeout (s : State) : Host.Outcome State Fault Refusal := .next (whileRunning timeOutWait s)

end Sys2Proof.Machine
end

