-- ==== Sys2Proof/Machine/HostCommands.lean ====
section
/-! DEFINITION. Machine/HostCommands.lean: the meanings of the 34 host commands. Each row is the SEND transaction
of its frame (log 3): refused, retried, validated and carried out as R154 to R157 give, its effect at the owning
block being the definition of the same name there. -/

namespace Sys2Proof.Machine

/-- ATTACH (R159). -/
def execAttach (h : HostId) (seq : Byte) (s : State) :
    Host.Outcome State Fault Refusal :=
  .next (requestRow h seq .attach noLevels s)

/-- DETACH (R160). -/
def execDetach (h : HostId) (seq : Byte) (s : State) :
    Host.Outcome State Fault Refusal :=
  .next (requestRow h seq .detach noLevels s)

/-- STATUS (R161). -/
def execStatus (h : HostId) (seq : Byte) (s : State) :
    Host.Outcome State Fault Refusal :=
  .next (requestRow h seq .status noLevels s)

/-- ECHO (R162). -/
def execEcho (h : HostId) (seq : Byte) (data : List Byte) (s : State) :
    Host.Outcome State Fault Refusal :=
  .next (requestRow h seq (.echo data) noLevels s)

/-- SESSIONS (R163). -/
def execSessions (h : HostId) (seq : Byte) (s : State) :
    Host.Outcome State Fault Refusal :=
  .next (requestRow h seq .sessions noLevels s)

/-- READ_TIME (R8). -/
def execReadTime (h : HostId) (seq : Byte) (s : State) :
    Host.Outcome State Fault Refusal :=
  .next (requestRow h seq .readTime noLevels s)

/-- TIME_STATUS (R9). -/
def execTimeStatus (h : HostId) (seq : Byte) (s : State) :
    Host.Outcome State Fault Refusal :=
  .next (requestRow h seq .timeStatus noLevels s)

/-- SET_TIME (R10 to R12). -/
def execSetTime (h : HostId) (seq : Byte) (value : TimeArg) (s : State) :
    Host.Outcome State Fault Refusal :=
  .next (requestRow h seq (.setTime value) noLevels s)

/-- STEP (R10, R13, R14). -/
def execStep (h : HostId) (seq : Byte) (amount : StepArg) (s : State) :
    Host.Outcome State Fault Refusal :=
  .next (requestRow h seq (.step amount) noLevels s)

/-- SLEW (R10, R16). -/
def execSlew (h : HostId) (seq : Byte) (amount : BitVec 64) (s : State) :
    Host.Outcome State Fault Refusal :=
  .next (requestRow h seq (.slew amount) noLevels s)

/-- SET_TRIM (R32). -/
def execSetTrim (h : HostId) (seq : Byte) (source : Byte) (trim : BitVec 32) (s : State) :
    Host.Outcome State Fault Refusal :=
  .next (requestRow h seq (.setTrim source trim) noLevels s)

/-- SET_SOURCES (R33 to R36). -/
def execSetSources (h : HostId) (seq : Byte) (list : ListArg) (levels : Quad Level) (s : State) :
    Host.Outcome State Fault Refusal :=
  .next (requestRow h seq (.setSources list) levels s)

/-- SOURCE_STATUS (R37). -/
def execSourceStatus (h : HostId) (seq : Byte) (s : State) :
    Host.Outcome State Fault Refusal :=
  .next (requestRow h seq .sourceStatus noLevels s)

/-- CLAIM (R108). -/
def execClaim (h : HostId) (seq : Byte) (lease : BitVec 16) (s : State) :
    Host.Outcome State Fault Refusal :=
  .next (requestRow h seq (.claim lease) noLevels s)

/-- RELEASE (R110). -/
def execRelease (h : HostId) (seq : Byte) (s : State) :
    Host.Outcome State Fault Refusal :=
  .next (requestRow h seq .release noLevels s)

/-- WITHDRAW (R112). -/
def execWithdraw (h : HostId) (seq : Byte) (s : State) :
    Host.Outcome State Fault Refusal :=
  .next (requestRow h seq .withdraw noLevels s)

/-- AUTH_STATUS (R117). -/
def execAuthStatus (h : HostId) (seq : Byte) (s : State) :
    Host.Outcome State Fault Refusal :=
  .next (requestRow h seq .authStatus noLevels s)

/-- ALLOC (R45). -/
def execAlloc (h : HostId) (seq : Byte) (s : State) :
    Host.Outcome State Fault Refusal :=
  .next (requestRow h seq .alloc noLevels s)

/-- FREE (R56). -/
def execFree (h : HostId) (seq : Byte) (slot : Byte) (s : State) :
    Host.Outcome State Fault Refusal :=
  .next (requestRow h seq (.free slot) noLevels s)

/-- ARM (R47 to R52). -/
def execArm (h : HostId) (seq : Byte) (args : ArmArg) (s : State) :
    Host.Outcome State Fault Refusal :=
  .next (requestRow h seq (.arm args) noLevels s)

/-- CANCEL (R54). -/
def execCancel (h : HostId) (seq : Byte) (slot : Byte) (s : State) :
    Host.Outcome State Fault Refusal :=
  .next (requestRow h seq (.cancel slot) noLevels s)

/-- TIMER_STATUS (R58). -/
def execTimerStatus (h : HostId) (seq : Byte) (slot : Byte) (s : State) :
    Host.Outcome State Fault Refusal :=
  .next (requestRow h seq (.timerStatus slot) noLevels s)

/-- TAKE (R97). -/
def execTake (h : HostId) (seq : Byte) (s : State) :
    Host.Outcome State Fault Refusal :=
  .next (requestRow h seq .take noLevels s)

/-- ACK (R98). -/
def execAck (h : HostId) (seq : Byte) (s : State) :
    Host.Outcome State Fault Refusal :=
  .next (requestRow h seq .ack noLevels s)

/-- PEEK (R100). -/
def execPeek (h : HostId) (seq : Byte) (s : State) :
    Host.Outcome State Fault Refusal :=
  .next (requestRow h seq .peek noLevels s)

/-- SET_THRESHOLD (R99). -/
def execSetThreshold (h : HostId) (seq : Byte) (threshold : Byte) (s : State) :
    Host.Outcome State Fault Refusal :=
  .next (requestRow h seq (.setThreshold threshold) noLevels s)

/-- BIND_PIN (R123). -/
def execBindPin (h : HostId) (seq : Byte) (pin idle : Byte) (width : BitVec 16) (s : State) :
    Host.Outcome State Fault Refusal :=
  .next (requestRow h seq (.bindPin pin idle width) noLevels s)

/-- UNBIND_PIN (R124). -/
def execUnbindPin (h : HostId) (seq : Byte) (pin : Byte) (s : State) :
    Host.Outcome State Fault Refusal :=
  .next (requestRow h seq (.unbindPin pin) noLevels s)

/-- DRIVE_PIN (R125). -/
def execDrivePin (h : HostId) (seq : Byte) (pin action : Byte) (s : State) :
    Host.Outcome State Fault Refusal :=
  .next (requestRow h seq (.drivePin pin action) noLevels s)

/-- PIN_STATUS (R126). -/
def execPinStatus (h : HostId) (seq : Byte) (pin : Byte) (s : State) :
    Host.Outcome State Fault Refusal :=
  .next (requestRow h seq (.pinStatus pin) noLevels s)

/-- SET_EDGES (R137). -/
def execSetEdges (h : HostId) (seq : Byte) (input selection : Byte) (s : State) :
    Host.Outcome State Fault Refusal :=
  .next (requestRow h seq (.setEdges input selection) noLevels s)

/-- SUBSCRIBE (R142). -/
def execSubscribe (h : HostId) (seq : Byte) (input cls : Byte) (s : State) :
    Host.Outcome State Fault Refusal :=
  .next (requestRow h seq (.subscribe input cls) noLevels s)

/-- UNSUBSCRIBE (R143). -/
def execUnsubscribe (h : HostId) (seq : Byte) (input : Byte) (s : State) :
    Host.Outcome State Fault Refusal :=
  .next (requestRow h seq (.unsubscribe input) noLevels s)

/-- READ_CAPTURE (R144). -/
def execReadCapture (h : HostId) (seq : Byte) (which : Byte) (s : State) :
    Host.Outcome State Fault Refusal :=
  .next (requestRow h seq (.readCapture which) noLevels s)

end Sys2Proof.Machine
end

