-- ==== Sys2Proof/Machine/PowerEvents.lean ====
section
/-! DEFINITION. Machine/PowerEvents.lean: the meanings of the reset lines, the supplies and the retained domain
(R164, R168 to R177). The level of a line is followed at all times; it acts when the main domain runs (log 22). -/

namespace Sys2Proof.Machine

/-- HRST_ASSERT (R164): a new assertion tears down an attached host and returns the port to IDLE, its data out line at
high impedance; an assertion while the line is asserted is no event (R166). -/
def execHrstAssert (h : HostId) (s : State) : Host.Outcome State Fault Refusal :=
  .next (
    if (s.port h).hrst then s
    else if s.running then
      let t := if s.attached h then teardown h s else s
      t.setPort h { t.port h with
        phase := .idle, record := none, refused := false, runt := false, hrst := true, shifted := [] }
    else s.setPort h { s.port h with hrst := true, shifted := [] })

/-- HRST_RELEASE (R164). -/
def execHrstRelease (h : HostId) (s : State) : Host.Outcome State Fault Refusal :=
  .next (s.setPort h { s.port h with hrst := false })

/-- `s` with another condition of VMAIN. -/
def withSupply (x : Supply) (s : State) : State := { s with power := { s.power with supply := x } }

/-- The supply of the retained domain risen above the retention threshold: a cold start when the retained state was
lost (R169, R177), which also leaves the main domain at its cold-start values (R6, R20, log 23). -/
def retainedRise (s : State) : State :=
  if s.retained.isSome then s else { mainDomainCleared s with retained := some .coldStart }

/-- The main reset, taken when no cause of a main-reset condition stands any more (R173, R174). -/
def resetIfEnded (s : State) : State := if s.running then mainReset s else s

/-- MAIN_RESET_CONDITION_BEGIN (R173): VMAIN rises from absence, not yet to 2.7 V; falls below 2.7 V; or RESETn is
driven low. -/
def execMainResetConditionBegin (cause : ResetCause) (s : State) : Host.Outcome State Fault Refusal :=
  .next (match cause, s.power.supply with
    | .powerUp, .absent => withSupply .low s
    | .brownOut, .operating => withSupply .low s
    | .brownOut, .powerUp _ => withSupply .low s
    | .resetPin, _ => { s with power := { s.power with resetLow := true } }
    | _, _ => s)

/-- VMAIN_RISE (R173): VMAIN at 2.7 V or above starts, or restarts, the power-up delay. It stands above the retention
threshold then (R182, log 21). -/
def execVmainRise (s : State) : Host.Outcome State Fault Refusal :=
  .next (match s.power.supply with
    | .low => retainedRise (withSupply (.powerUp 0) s)
    | .powerUp _ => withSupply (.powerUp 0) s
    | _ => s)

/-- POWER_UP_DELAY_END (R173), when VMAIN has stood at or above 2.7 V for 2 ms. -/
def execPowerUpDelayEnd (s : State) : Host.Outcome State Fault Refusal :=
  .next (match s.power.supply with
    | .powerUp e => if powerUpDelay ≤ e then resetIfEnded (withSupply .operating s) else s
    | _ => s)

/-- RESETN_RELEASE (R173). -/
def execResetnRelease (s : State) : Host.Outcome State Fault Refusal :=
  .next (
    if s.power.resetLow then resetIfEnded { s with power := { s.power with resetLow := false } } else s)

/-- VMAIN_LOSS (R176): a main-power absence begins. The main domain is unsupplied and its state is lost; nothing of it is
left to read, and it takes the values of a reset (log 23). The retained domain and the levels of the lines stand. -/
def execVmainLoss (s : State) : Host.Outcome State Fault Refusal :=
  .next (
    if s.power.supply = .absent then s
    else { mainDomainCleared s with power := { s.power with supply := .absent, absence := true } })

/-- The retained count after one LP cycle, held at the greatest time value (R170). -/
def Retained.tick (r : Retained) : Retained :=
  let total := r.time * fine + r.residue + lpPeriod
  if total < countLimit then { r with time := total / fine, residue := total % fine }
  else { r with time := maxTime, residue := 0 }

/-- LP_CYCLE (R170), with or without main power. -/
def execLpCycle (s : State) : Host.Outcome State Fault Refusal :=
  .next { s with retained := s.retained.map Retained.tick }

/-- RETAINED_STATE_LOSS (R169): the higher of VBAK and VMAIN falls below the retention threshold, which it can do
only while VMAIN stands below 2.7 V. -/
def execRetainedStateLoss (s : State) : Host.Outcome State Fault Refusal :=
  .next (match s.power.supply with
    | .absent => { s with retained := none }
    | .low => { s with retained := none }
    | _ => s)

/-- COLD_START (R177), after the retained state was lost. -/
def execColdStart (s : State) : Host.Outcome State Fault Refusal := .next (retainedRise s)

end Sys2Proof.Machine
end

