-- ==== Sys2Proof/Machine/Transactions.lean ====
section
/-! DEFINITION. Machine/Transactions.lean: the meanings of POLL, SEND and FETCH (R149, R151, R154, R178). -/

namespace Sys2Proof.Machine

/-- POLL: the transaction of its first byte; nothing is taken. One released before its first byte is complete is none
(R149). A row whose first byte is a SEND or FETCH code is not well-formed, and runs as the transaction that byte asks
for, with no levels to sample (R178, log 7). -/
def execPoll (h : HostId) (first : Option Byte) (more : List Byte) (s : State) : Host.Outcome State Fault Refusal :=
  .next (match first with
    | some b => transaction h b more noLevels s
    | none => showNothing h s)

/-- SEND: the status byte and fill bytes go out, and the frame is taken at the release of the select (R154). -/
def execSend (h : HostId) (frame : List Byte) (levels : Quad Level) (s : State) :
    Host.Outcome State Fault Refusal :=
  .next (transaction h 0xA5 frame levels s)

/-- FETCH: the held answer goes out, or NONE, and stays held (R151); what the host shifts in is ignored. -/
def execFetch (h : HostId) (more : Nat) (s : State) : Host.Outcome State Fault Refusal :=
  .next (transaction h 0x5A (List.replicate more 0) noLevels s)

end Sys2Proof.Machine
end

