-- ==== Sys2Proof/Machine/Dispatch.lean ====
section
/-! DEFINITION. Machine/Dispatch.lean: the meaning of every command, one arm for each. -/

namespace Sys2Proof.Machine

/-- The effect of one command on everything but the queue of waiting commands. -/
def exec (i : Instr) (s : State) : Host.Outcome State Fault Refusal :=
  match i with
  | .poll h first more => Sys2Proof.Machine.execPoll h first more s
  | .send h frame levels => Sys2Proof.Machine.execSend h frame levels s
  | .fetch h more => Sys2Proof.Machine.execFetch h more s
  | .attach h seq => Sys2Proof.Machine.execAttach h seq s
  | .detach h seq => Sys2Proof.Machine.execDetach h seq s
  | .status h seq => Sys2Proof.Machine.execStatus h seq s
  | .echo h seq data => Sys2Proof.Machine.execEcho h seq data s
  | .sessions h seq => Sys2Proof.Machine.execSessions h seq s
  | .readTime h seq => Sys2Proof.Machine.execReadTime h seq s
  | .timeStatus h seq => Sys2Proof.Machine.execTimeStatus h seq s
  | .setTime h seq value => Sys2Proof.Machine.execSetTime h seq value s
  | .step h seq amount => Sys2Proof.Machine.execStep h seq amount s
  | .slew h seq amount => Sys2Proof.Machine.execSlew h seq amount s
  | .setTrim h seq source trim => Sys2Proof.Machine.execSetTrim h seq source trim s
  | .setSources h seq list levels => Sys2Proof.Machine.execSetSources h seq list levels s
  | .sourceStatus h seq => Sys2Proof.Machine.execSourceStatus h seq s
  | .claim h seq lease => Sys2Proof.Machine.execClaim h seq lease s
  | .release h seq => Sys2Proof.Machine.execRelease h seq s
  | .withdraw h seq => Sys2Proof.Machine.execWithdraw h seq s
  | .authStatus h seq => Sys2Proof.Machine.execAuthStatus h seq s
  | .alloc h seq => Sys2Proof.Machine.execAlloc h seq s
  | .free h seq slot => Sys2Proof.Machine.execFree h seq slot s
  | .arm h seq args => Sys2Proof.Machine.execArm h seq args s
  | .cancel h seq slot => Sys2Proof.Machine.execCancel h seq slot s
  | .timerStatus h seq slot => Sys2Proof.Machine.execTimerStatus h seq slot s
  | .take h seq => Sys2Proof.Machine.execTake h seq s
  | .ack h seq => Sys2Proof.Machine.execAck h seq s
  | .peek h seq => Sys2Proof.Machine.execPeek h seq s
  | .setThreshold h seq threshold => Sys2Proof.Machine.execSetThreshold h seq threshold s
  | .bindPin h seq pin idle width => Sys2Proof.Machine.execBindPin h seq pin idle width s
  | .unbindPin h seq pin => Sys2Proof.Machine.execUnbindPin h seq pin s
  | .drivePin h seq pin action => Sys2Proof.Machine.execDrivePin h seq pin action s
  | .pinStatus h seq pin => Sys2Proof.Machine.execPinStatus h seq pin s
  | .setEdges h seq input selection => Sys2Proof.Machine.execSetEdges h seq input selection s
  | .subscribe h seq input cls => Sys2Proof.Machine.execSubscribe h seq input cls s
  | .unsubscribe h seq input => Sys2Proof.Machine.execUnsubscribe h seq input s
  | .readCapture h seq which => Sys2Proof.Machine.execReadCapture h seq which s
  | .advance levels => Sys2Proof.Machine.execAdvance levels s
  | .expiry => Sys2Proof.Machine.execExpiry s
  | .pulseEnd pin => Sys2Proof.Machine.execPulseEnd pin s
  | .capture => Sys2Proof.Machine.execCapture s
  | .leaseExpiry => Sys2Proof.Machine.execLeaseExpiry s
  | .rcCycle => Sys2Proof.Machine.execRcCycle s
  | .sourceEdge source => Sys2Proof.Machine.execSourceEdge source s
  | .sourceLoss source levels => Sys2Proof.Machine.execSourceLoss source levels s
  | .qualification source => Sys2Proof.Machine.execQualification source s
  | .holdOffEnd source => Sys2Proof.Machine.execHoldOffEnd source s
  | .waitTimeout => Sys2Proof.Machine.execWaitTimeout s
  | .hrstAssert h => Sys2Proof.Machine.execHrstAssert h s
  | .mainResetConditionBegin cause => Sys2Proof.Machine.execMainResetConditionBegin cause s
  | .resetnRelease => Sys2Proof.Machine.execResetnRelease s
  | .powerUpDelayEnd => Sys2Proof.Machine.execPowerUpDelayEnd s
  | .vmainLoss => Sys2Proof.Machine.execVmainLoss s
  | .lpCycle => Sys2Proof.Machine.execLpCycle s
  | .retainedStateLoss => Sys2Proof.Machine.execRetainedStateLoss s
  | .coldStart => Sys2Proof.Machine.execColdStart s
  | .hrstRelease h => Sys2Proof.Machine.execHrstRelease h s
  | .vmainRise => Sys2Proof.Machine.execVmainRise s

end Sys2Proof.Machine
end

