-- ==== Sys2Proof/Safety.lean ====
section
/-! DEFINITION. Safety.lean: the words in which claims are made: when a port takes a request, what answer a port
holds, what a command leaves unchanged, and the invariants of each block. -/

namespace Sys2Proof.Machine

/-! ### Taking a request and its answer -/

/-- Port `h` takes a frame with this opcode and sequence number as a new request: the main domain runs, HRSTx is
not asserted, the port is not WORKING, and the frame is no retry (R149, R154, R155). -/
def Ready (h : HostId) (op seq : Byte) (s : State) : Prop :=
  s.running = true ∧ (s.port h).hrst = false ∧ (∀ o q, (s.port h).phase ≠ .working o q)
    ∧ retryOf (s.port h) op seq = none

/-- The same for an attached host (R156 step 3). -/
def Takes (h : HostId) (op seq : Byte) (s : State) : Prop := Ready h op seq s ∧ s.attached h = true

/-- The same for the holder of the time authority (R156 step 4). -/
def TakesAsHolder (h : HostId) (op seq : Byte) (s : State) : Prop := Takes h op seq s ∧ holder s = some h

/-- Port `h` is ANSWERED, holding this answer, which is also its last executed record (R156, R157); no flag is
on. -/
def Answers (h : HostId) (op seq : Byte) (r : Result) (payload : List Byte) (t : State) : Prop :=
  (t.port h).phase = .answered ⟨op, seq, r, payload⟩ ∧
    (t.port h).record = some ⟨op, seq, ⟨op, seq, r, payload⟩⟩ ∧
    (t.port h).refused = false ∧ (t.port h).runt = false

/-! ### What is left unchanged -/

/-- The parts of the state that the commands work on. -/
inductive Part
  | count
  | sup
  | pool
  | notices
  | auth
  | pins
  | cap
  | ports
  | retained
  | power
deriving DecidableEq, Repr

/-- Everything but the named parts stands as it was; no command touches the queue of waiting commands. -/
def OnlyChanges (parts : List Part) (s t : State) : Prop :=
  (.count ∉ parts → t.count = s.count) ∧ (.sup ∉ parts → t.sup = s.sup) ∧ (.pool ∉ parts → t.pool = s.pool) ∧
  (.notices ∉ parts → t.notices = s.notices) ∧ (.auth ∉ parts → t.auth = s.auth) ∧
  (.pins ∉ parts → t.pins = s.pins) ∧ (.cap ∉ parts → t.cap = s.cap) ∧ (.ports ∉ parts → t.ports = s.ports) ∧
  (.retained ∉ parts → t.retained = s.retained) ∧ (.power ∉ parts → t.power = s.power) ∧ t.pending = s.pending

/-- What a request of host `h` leaves of the ports: the other ports, and the session and reset line of `h`. -/
def PortFrame (h : HostId) (s t : State) : Prop :=
  (∀ g, g ≠ h → t.port g = s.port g) ∧ t.attached h = s.attached h ∧ (t.port h).hrst = (s.port h).hrst

/-- The frame of a request of host `h` that works on `parts` besides its own port. -/
def RequestFrame (h : HostId) (parts : List Part) (s t : State) : Prop :=
  OnlyChanges (.ports :: parts) s t ∧ PortFrame h s t

/-! ### Shared effects -/

/-- Notice `n` reached host `g`'s box, if that host is attached, and no other box changed (R89). -/
def PostedTo (g : HostId) (n : Notice) (s t : State) : Prop :=
  ∀ h, t.box h = if h = g ∧ s.attached g = true then (s.box h).post n else s.box h

/-- Notice `n` reached the box of every attached host (R86). -/
def PostedAll (n : Notice) (s t : State) : Prop :=
  ∀ h, t.box h = if s.attached h = true then (s.box h).post n else s.box h

/-- A system notice as its posting block makes it: class 4, stamped `stamp`, repeat 1, no tag (R86). -/
def systemNotice (kind : NoticeKind) (stamp : Nat) (origin : Option Origin) (detail : Option Detail)
    (flags : NoticeFlags) : Notice :=
  ⟨kind, 4, stamp, origin, none, 1, detail, flags⟩

/-- The AUTH_GRANTED notice of a lease (R116), stamped with the count. -/
def grantedNotice (s : State) (lease : Nat) : Notice :=
  systemNotice .authGranted s.count.time none (some (.number lease)) (conditionFlags s)

/-- The hand-over to the head of `waiting`, or to none (R111 parts 1 to 3): the arbiter after it, and the boxes of
the hosts other than `apart`. -/
def HandedOver (waiting : List Waiter) (apart : HostId → Prop) (s t : State) : Prop :=
  (waiting = [] → t.auth = ⟨none, []⟩ ∧ ∀ g, ¬apart g → t.box g = s.box g) ∧
  ∀ w rest, waiting = w :: rest →
    t.auth = ⟨some ⟨w.host, w.lease, 0⟩, rest⟩ ∧
      ∀ g, ¬apart g → t.box g =
        if g = w.host ∧ s.attached g = true then (s.box g).post (grantedNotice s w.lease) else s.box g

/-- The teardown of host `h` (R165): its session, slots (R59), notices (R103), place at the arbiter (R119), wait
(R40), pins (R132) and subscriptions (R146) are released; everything else stands. Port `h` itself is left to the
command that starts the teardown. -/
def TornDown (h : HostId) (s t : State) : Prop :=
  t.attached h = false ∧ (∀ g, g ≠ h → t.port g = s.port g) ∧ t.box h = ⟨[], none, 5, 0⟩ ∧
  (∀ i, t.timer i = (s.timer i).filter fun x => x.owner ≠ h) ∧ t.pool.nextSeq = s.pool.nextSeq ∧
  (∀ p, t.pin p = (s.pin p).filter fun r => r.owner ≠ h) ∧
  (∀ i, t.input i = { s.input i with
    subscribers := (s.input i).subscribers.set h none, gaps := (s.input i).gaps.set h 0 }) ∧
  t.cap.log = ((s.cap.log.map fun r => { r with owed := r.owed.set h false }).filter fun r =>
    r.owed.a || r.owed.b || r.owed.c) ∧
  t.cap.serial = s.cap.serial ∧ t.cap.seen = s.cap.seen ∧
  t.sup = { s.sup with wait := s.sup.wait.filter fun w => w.host ≠ h } ∧
  (holder s ≠ some h →
    t.auth = { s.auth with waiting := s.auth.waiting.filter fun w => w.host ≠ h } ∧
      ∀ g, g ≠ h → t.box g = s.box g) ∧
  (holder s = some h → HandedOver (s.auth.waiting.filter fun w => w.host ≠ h) (· = h) s t) ∧
  t.count = s.count ∧ t.retained = s.retained ∧ t.power = s.power ∧ t.pending = s.pending

/-- A timer record after the expiry of its deadline when `now` has reached it, and otherwise as it stands (R67
parts 1 and 4). -/
def recognised (now : Nat) (x : Timer) : Timer :=
  match x.armed with
  | some a => if a.deadline ≤ now then Timer.settle { x with fire := min 65535 (x.fire + 1) } a now else x
  | none => x

/-- A timer record with its ELAPSED deadline moved by `d` (R49, R77). -/
def movedBy (d : Int) (x : Timer) : Timer :=
  if x.basis = .elapsed then { x with armed := x.armed.map fun a => { a with deadline := a.deadline + d } }
  else x

/-- A timer record through step recognition by `d ≠ 0` (R76): leftover expiry against the count before, move, and
for `0 < d` the expiry against the count after. -/
def throughStep (d : Int) (before after : Nat) (x : Timer) : Timer :=
  let y := movedBy d (recognised before x)
  if 0 < d then recognised after y else y

/-- Every running pulse of a pin record moved by `d` (R129). -/
def pulseMovedBy (d : Int) (r : PinRecord) : PinRecord :=
  { r with pulseEnd := r.pulseEnd.map (· + d) }

/-- No period is 0; `PoolInv` gives it. -/
def PeriodsPositive (s : State) : Prop := ∀ i x p, s.timer i = some x → x.kind = .periodic p → 1 ≤ p

/-- The TIMER notice of an expiry (R68), stamped with its deadline. -/
def expiryNotice (s : State) (i : Slot) (x : Timer) (deadline : Int) (fire : Nat) (late : Bool) : Notice :=
  ⟨.timer, x.cls, timeValue deadline, some (.slot i), some x.tag, 1, some (.number fire),
    ⟨late, holdover s, s.count.setState = .retained, false⟩⟩

/-- The entries of the deadline queue that `now` has reached, in queue order (R76 part 1, R78). -/
def reachedEntries (now : Nat) (u : State) : List Entry := (deadlineQueue u).filter fun e => e.deadline ≤ now

/-- The TIMER notices to host `g` of one expiry of each reached entry of `u`, in queue order, under the conditions of `t`
(R67 part 3, R78, R80). -/
def reachedNotices (g : HostId) (late : Bool) (now : Nat) (t u : State) : List Notice :=
  (reachedEntries now u).filterMap fun e =>
    ((u.timer e.slot).filter fun x => x.notify && decide (x.owner = g)).map fun x =>
      expiryNotice t e.slot x e.deadline (min 65535 (x.fire + 1)) late

/-- The actions at pin `p` of one expiry of each reached entry of `u`, in queue order, with their slots (R67 part 2,
R80). -/
def reachedActions (p : PinId) (now : Nat) (u : State) : List (PinAction × Slot) :=
  (reachedEntries now u).filterMap fun e =>
    (((u.timer e.slot).bind (·.action)).filter fun a => a.pin = p).map fun a => (a.action, e.slot)

/-- The records after the leftover expiries and the move of step recognition by `d` (R76 parts 1 and 2). -/
def afterMove (d : Int) (s : State) : State :=
  { s with pool := mapTimers (Option.map fun x => movedBy d (recognised s.count.time x)) s.pool }

/-- A set or step of the count by `d` (R14): the count, the retained count, every timer record (R76 to R79), the
stamps of captures yet to be taken (R141), every host's notices (TIME_STEPPED, then those of the leftover expiries, not
LATE, then those of the forward expiries, LATE; R69, R78, R80), every pin (its pulse moved, then the actions of those
expiries in the same order, taken at the stepped count; R128 to R130), and what stands. -/
def Stepped (d : Int) (clearResidue : Bool) (s t : State) : Prop :=
  t.count = { s.count with
    time := ((s.count.time : Int) + d).toNat, residue := if clearResidue then 0 else s.count.residue,
    slew := 0, setState := .set } ∧
  t.retained = s.retained.map (fun r => { r with time := t.count.time, residue := t.count.residue }) ∧
  (∀ i, t.timer i =
    if d = 0 then s.timer i else (s.timer i).map (throughStep d s.count.time t.count.time)) ∧
  t.pool.nextSeq = s.pool.nextSeq ∧
  t.cap = { s.cap with seen := s.cap.seen.map fun e => { e with stamp := e.stamp + d } } ∧
  (d = 0 → t.notices = s.notices ∧ t.pins = s.pins) ∧
  (d ≠ 0 → ∀ g, t.box g =
    if s.attached g = true then
      (reachedNotices g false s.count.time t s ++
        if 0 < d then reachedNotices g true t.count.time t (afterMove d s) else []).foldl (fun b n => b.post n)
          ((s.box g).post (systemNotice .timeStepped t.count.time none
            (some (.number (max (-4611686018427387904) (min 4611686018427387904 d))))
            ⟨false, holdover s, s.count.setState = .retained, false⟩))
    else s.box g) ∧
  (d ≠ 0 → ∀ p, t.pin p =
    (reachedActions p s.count.time s ++
      if 0 < d then reachedActions p t.count.time (afterMove d s) else []).foldl
        (fun r a => r.map fun r => r.apply a.1 (.slot a.2) t.count.time) ((s.pin p).map (pulseMovedBy d))) ∧
  t.sup = s.sup ∧ t.auth = s.auth ∧ t.power = s.power ∧ t.pending = s.pending

/-- The gap bridge of `m` as an advance of the count (R5): what it changes, with the levels sampled after it. The
supervisor, the notices, the ports and the power stand. -/
def Bridged (m : Nat) (levels : Quad Level) (s t : State) : Prop :=
  let u := takeAdvance m levels s
  t.count = u.count ∧ t.pool = u.pool ∧ t.auth = u.auth ∧ t.pins = u.pins ∧ t.cap = u.cap

/-- The state of XO or EXT under a newly stored list (R23, R33 parts 2 and 3). -/
def stateUnder (l : List Source) (s : State) : Source → SourceState
  | .xo => if .xo ∈ l then (if s.sup.xo = .off then .waiting else s.sup.xo) else .off
  | .ext => if .ext ∈ l then (if s.sup.ext = .off then .waiting else s.sup.ext) else .off
  | .rc => .qualified .elapsed 0

/-- A list `l` stored by host `h`, with `chosen` selected at the store and a wait started when `waits` (R33, R34,
R35). A store that takes OFF the selected source bridges from that source's last edge (R30), one that takes OFF a source
being left alone from that one's (log 10); the stamp of its notice is then open (log 11). A switch while another source
is being left goes on awaiting that one, and a bridge drops its last advance (log 9). -/
def Stored (l : List Source) (chosen : Option Source) (waits : Bool) (h : HostId) (levels : Quad Level)
    (s t : State) : Prop :=
  let selectedOff : Bool := stateUnder l s s.sup.selected = .off
  let leftOff : Bool := s.sup.leaving.any fun x => stateUnder l s x = .off
  let off : Bool := selectedOff || leftOff
  let last := if selectedOff then s.sup.selected else s.sup.leaving.getD s.sup.selected
  let bridge := (s.sourceState last).sinceEdge.getD 0
  let driving := if leftOff then s.sup.selected else s.sup.leaving.getD s.sup.selected
  t.sup.list = l ∧ t.sup.xo = stateUnder l s .xo ∧ t.sup.ext = stateUnder l s .ext ∧ t.sup.trims = s.sup.trims ∧
  t.sup.startUp = false ∧ t.sup.selected = chosen.getD s.sup.selected ∧
  t.sup.wait = (if waits then some ⟨h, 0⟩ else s.sup.wait) ∧
  t.sup.leaving = (match chosen with
    | none => if off then none else s.sup.leaving
    | some x => if selectedOff ∨ driving = x then none else some driving) ∧
  (off = true → Bridged bridge levels s t ∧
    t.retained = (takeAdvance bridge levels s).retained.map fun r => { r with list := l }) ∧
  (off = false → OnlyChanges [.sup, .notices, .ports, .retained] s t ∧
    t.retained = s.retained.map fun r => { r with list := l }) ∧
  (match chosen with
    | none => t.notices = s.notices
    | some x => PostedAll (systemNotice .source
        (if Config.storeStampAfterBridge then t.count.time else s.count.time) none (some (.source x .command))
        ⟨false, l.head? ≠ some x, s.count.setState = .retained, false⟩) s t) ∧
  t.power = s.power ∧ t.pending = s.pending

/-- The first deadline of an arming and the periods it has skipped (R49, R51, R47 step 8). -/
def FirstDeadline (x : ArmSettings) (now first skipped : Nat) : Prop :=
  match x.basis, x.kind with
  | .elapsed, _ => first = now + x.when ∧ skipped = 0
  | .absolute, .once => first = x.when ∧ skipped = 0
  | .absolute, .periodic period =>
    first = x.when + skipped * period ∧ (now < x.when → skipped = 0) ∧
      (x.when ≤ now → 1 ≤ skipped ∧ now < first ∧ first ≤ now + period) ∧ first ≤ maxTime

/-- The arming sequence `n` that an ARM of slot `i` takes (R63), and what it does to the other records: nothing while
the counter is below its greatest value; at that value they are renumbered, keeping their order, below `n`. -/
def SequenceTaken (i : Slot) (n : Nat) (s t : State) : Prop :=
  t.pool.nextSeq = n + 1 ∧
  (s.pool.nextSeq < 4294967295 → n = s.pool.nextSeq ∧ ∀ j, j ≠ i → t.timer j = s.timer j) ∧
  (s.pool.nextSeq = 4294967295 → n ≤ 47 ∧ ∃ f : Nat → Nat,
    (∀ j, j ≠ i → t.timer j = (s.timer j).map fun x =>
      { x with armed := x.armed.map fun a => { a with seq := f a.seq } }) ∧
    ∀ j x a, j ≠ i → s.timer j = some x → x.armed = some a → f a.seq < n ∧
      ∀ k y b, k ≠ i → s.timer k = some y → y.armed = some b → a.seq < b.seq → f a.seq < f b.seq)

/-- The action of an expiry at its pin, and no other pin (R67 part 2, R127, R128). -/
def ActionApplied (action : Option PinUse) (i : Slot) (s t : State) : Prop :=
  match action with
  | none => t.pins = s.pins
  | some u => ∀ p, t.pin p =
      if p = u.pin then (s.pin p).map fun r => r.apply u.action (.slot i) s.count.time else s.pin p

/-- The notice of an expiry at its owner's box, when the timer notifies (R67 part 3). -/
def ExpiryPosted (x : Timer) (n : Notice) (s t : State) : Prop :=
  if x.notify then PostedTo x.owner n s t else t.notices = s.notices

/-- The fields of an ARM that steps 2 to 5 of R47 accept. -/
def ArmFieldsOk (v : ArmArg) : Prop :=
  v.kind.toNat ≤ 1 ∧ v.basis.toNat ≤ 1 ∧ v.cls.toNat ≤ 3 ∧ v.notify.toNat ≤ 1 ∧
  (v.kind = 1 → 10000 ≤ v.period.toInt ∧ v.period.toInt ≤ 1000000000000000) ∧
  (v.basis = 0 → v.when.toNat % 4294967296 ≤ 999999999) ∧ (v.basis = 1 → v.when.toNat ≤ 1000000000000000) ∧
  ∀ p a, v.pinAction = some (p, a) → p.toNat ≤ 3 ∧ 1 ≤ a.toNat ∧ a.toNat ≤ 4

/-- The values of a main reset on the retained state `r` (R174, and R20, R38, R60, R84, R87, R105, R121, R134,
R148). -/
def MainResetValues (r : Retained) (s t : State) : Prop :=
  t.count = ⟨r.time, r.residue, if r.timeSet then .retained else .unset, 0, 0⟩ ∧
  t.sup = ⟨if .xo ∈ r.list then .waiting else .off, if .ext ∈ r.list then .waiting else .off, r.list, r.trims, .rc,
    none, r.list.head? ≠ some .rc, none⟩ ∧
  (∀ i, t.timer i = none) ∧ t.pool.nextSeq = 0 ∧ (∀ h, t.box h = ⟨[], none, 5, 0⟩) ∧ t.auth = ⟨none, []⟩ ∧
  (∀ p, t.pin p = none) ∧ (∀ i, t.input i = ⟨.none, none, none, .const none, .const 0⟩) ∧
  t.cap.log = [] ∧ t.cap.serial = 0 ∧ t.cap.seen = [] ∧
  (∀ h, t.port h = ⟨.idle, none, false, false, false, (s.port h).hrst, []⟩) ∧
  t.retained = s.retained ∧ t.pending = s.pending

/-- The opcodes with the payload lengths each accepts (R180). -/
def acceptedLengths : List (Byte × List Nat) :=
  [(0x01, [0]), (0x02, [0]), (0x03, [0]), (0x04, List.range 49), (0x05, [0]), (0x10, [0]), (0x11, [0]), (0x12, [9]),
    (0x13, [11]), (0x14, [8]), (0x20, [5]), (0x21, [4]), (0x22, [0]), (0x30, [2]), (0x31, [0]), (0x32, [0]),
    (0x33, [0])]
  ++ [(0x40, [0]), (0x41, [1]), (0x42, [24, 26]), (0x43, [1]), (0x44, [1]), (0x50, [0]), (0x51, [0]), (0x52, [0]),
    (0x53, [1]), (0x60, [4]), (0x61, [1]), (0x62, [2]), (0x63, [1]), (0x70, [2]), (0x71, [2]), (0x72, [1]),
    (0x73, [1])]

/-! ### Host commands as rows -/

/-- The host, sequence number, request and sampled levels of a row that is a host command. -/
def hostCommand : Instr → Option (HostId × Byte × Request × Quad Level)
  | .attach h q => some (h, q, .attach, noLevels)
  | .detach h q => some (h, q, .detach, noLevels)
  | .status h q => some (h, q, .status, noLevels)
  | .echo h q data => some (h, q, .echo data, noLevels)
  | .sessions h q => some (h, q, .sessions, noLevels)
  | .readTime h q => some (h, q, .readTime, noLevels)
  | .timeStatus h q => some (h, q, .timeStatus, noLevels)
  | .setTime h q v => some (h, q, .setTime v, noLevels)
  | .step h q v => some (h, q, .step v, noLevels)
  | .slew h q v => some (h, q, .slew v, noLevels)
  | .setTrim h q x v => some (h, q, .setTrim x v, noLevels)
  | .setSources h q v levels => some (h, q, .setSources v, levels)
  | .sourceStatus h q => some (h, q, .sourceStatus, noLevels)
  | .claim h q v => some (h, q, .claim v, noLevels)
  | .release h q => some (h, q, .release, noLevels)
  | .withdraw h q => some (h, q, .withdraw, noLevels)
  | .authStatus h q => some (h, q, .authStatus, noLevels)
  | .alloc h q => some (h, q, .alloc, noLevels)
  | .free h q x => some (h, q, .free x, noLevels)
  | .arm h q v => some (h, q, .arm v, noLevels)
  | .cancel h q x => some (h, q, .cancel x, noLevels)
  | .timerStatus h q x => some (h, q, .timerStatus x, noLevels)
  | .take h q => some (h, q, .take, noLevels)
  | .ack h q => some (h, q, .ack, noLevels)
  | .peek h q => some (h, q, .peek, noLevels)
  | .setThreshold h q v => some (h, q, .setThreshold v, noLevels)
  | .bindPin h q p i w => some (h, q, .bindPin p i w, noLevels)
  | .unbindPin h q p => some (h, q, .unbindPin p, noLevels)
  | .drivePin h q p x => some (h, q, .drivePin p x, noLevels)
  | .pinStatus h q p => some (h, q, .pinStatus p, noLevels)
  | .setEdges h q i x => some (h, q, .setEdges i x, noLevels)
  | .subscribe h q i c => some (h, q, .subscribe i c, noLevels)
  | .unsubscribe h q i => some (h, q, .unsubscribe i, noLevels)
  | .readCapture h q w => some (h, q, .readCapture w, noLevels)
  | _ => none

/-! ### Invariants -/

/-- The notice queues (R87, R88): at most 16 notices, in non-increasing class order, no two with one kind and
origin; a detached host's box is empty (R103). -/
def QueueInv (s : State) : Prop :=
  ∀ h, (s.box h).queue.length ≤ 16 ∧ (s.box h).queue.Pairwise (fun x y => y.cls ≤ x.cls) ∧
    (s.box h).queue.Pairwise (fun x y => ¬(x.kind = y.kind ∧ x.origin = y.origin)) ∧
    (s.box h).threshold ≤ 5 ∧ (s.box h).drops ≤ 65535 ∧ (s.attached h = false → s.box h = .initial)

/-- A class 4 notice is a system notice (R86): one of the four kinds without an origin, or an AUTH_WANTED from a
host. -/
def SystemShape (n : Notice) : Prop :=
  ((n.kind = .timeStepped ∨ n.kind = .source ∨ n.kind = .authGranted ∨ n.kind = .authLost) ∧ n.origin = none) ∨
    (n.kind = .authWanted ∧ ∃ g, n.origin = some (.host g))

/-- Classes (R42, R86, R134): the queued notices of class 4 are the system notices, and the classes that timers and
subscribers give their notices are 0 to 3. -/
def SystemNoticeInv (s : State) : Prop :=
  (∀ h, ∀ n ∈ (s.box h).queue, n.cls ≤ 4 ∧ (n.cls = 4 ↔ SystemShape n)) ∧
  (∀ i t, s.timer i = some t → t.cls ≤ 3) ∧ ∀ i h c, (s.input i).subscribers.get h = some c → c ≤ 3

/-- The arbiter (R105, R106): the holder is attached; the waiters are at most two distinct attached hosts, none of
them the holder; with no holder nobody waits; every lease is 1 to 600 s. -/
def AuthInv (s : State) : Prop :=
  (∀ x, s.auth.holding = some x → s.attached x.host = true ∧ 1 ≤ x.lease ∧ x.lease ≤ 600) ∧
  s.auth.waiting.length ≤ 2 ∧ (s.auth.waiting.map (·.host)).Nodup ∧
  (∀ w ∈ s.auth.waiting, s.attached w.host = true ∧ holder s ≠ some w.host ∧ 1 ≤ w.lease ∧ w.lease ≤ 600) ∧
  (s.auth.holding = none → s.auth.waiting = [])

/-- The capture unit (R134, R138): at most 32 records, each owed to somebody, and only to attached hosts
subscribed to its input; a host that is not subscribed has no gaps there (R142). -/
def CaptureInv (s : State) : Prop :=
  s.cap.log.length ≤ 32 ∧ s.cap.serial ≤ 65535 ∧
  (∀ r ∈ s.cap.log, (∃ h, r.owed.get h = true) ∧
    ∀ h, r.owed.get h = true → s.attached h = true ∧ subscribed (s.input r.input) h = true) ∧
  (∀ i h, subscribed (s.input i) h = true → s.attached h = true) ∧
  (∀ i h, (s.input i).gaps.get h ≤ 255 ∧ (subscribed (s.input i) h = false → (s.input i).gaps.get h = 0))

/-- The pool and the pins (R41, R42, R47, R121, R122): an allocated timer's owner is attached and owns at most 32;
the fields are in range; no ABSOLUTE timer is ARMED in UNSET; a pin that an ARMED timer names is bound to its owner;
a bound pin's owner is attached and its width in range. -/
def PoolInv (s : State) : Prop :=
  (∀ h, allocationCount s h ≤ 32) ∧
  (∀ i t, s.timer i = some t →
    s.attached t.owner = true ∧ t.cls ≤ 3 ∧ t.fire ≤ 65535 ∧ t.missed ≤ 65535 ∧
    (∀ p, t.kind = .periodic p → 10000 ≤ p ∧ p ≤ 1000000000000000) ∧
    (t.armed.isSome → t.basis = .absolute → s.count.setState ≠ .unset) ∧
    (t.armed.isSome → ∀ u, t.action = some u → ∃ r, s.pin u.pin = some r ∧ r.owner = t.owner)) ∧
  ∀ p r, s.pin p = some r → s.attached r.owner = true ∧ 1 ≤ r.width ∧ r.width ≤ 65535

/-- Arming sequences (R62, R63): those of the ARMED timers are distinct and below the counter, which stays in its
range. -/
def SequenceInv (s : State) : Prop :=
  s.pool.nextSeq ≤ 4294967295 ∧
  ∀ i t x, s.timer i = some t → t.armed = some x → x.seq < s.pool.nextSeq ∧
    ∀ j u y, s.timer j = some u → u.armed = some y → x.seq = y.seq → i = j

/-- The count and the retained count (R1, R6, R16, R168): in range, and no slew in UNSET. -/
def CountInv (s : State) : Prop :=
  s.count.time < 1099511627776000000000 ∧ s.count.residue < 4294967296 ∧ s.count.heldResidue < 4294967296 ∧
  s.count.slew.natAbs ≤ 999999999 * 4294967296 ∧ (s.count.setState = .unset → s.count.slew = 0) ∧
  ∀ r, s.retained = some r → r.time < 1099511627776000000000 ∧ r.residue < 4294967296

/-- A list of 1 to 3 distinct sources and trims in range (R26, R32). -/
def SettingsOk (list : List Source) (trims : PerSource Int) : Prop :=
  list ≠ [] ∧ list.Nodup ∧ ∀ x, -50000000 ≤ trims.get x ∧ trims.get x ≤ 50000000

/-- The supervisor (R23, R26, R27, R32, R172): XO and EXT are OFF exactly when the list does not name them, the
selected source is RC or QUALIFIED, so is a source being left, and while the main domain runs the retained copies
equal the list and the trims. A main-power absence lasts while VMAIN is absent, and is over once the main domain runs
(R176). -/
def SupervisorInv (s : State) : Prop :=
  SettingsOk s.sup.list s.sup.trims ∧
  (s.sup.xo = .off ↔ .xo ∉ s.sup.list) ∧ (s.sup.ext = .off ↔ .ext ∉ s.sup.list) ∧
  (s.sourceState s.sup.selected).isQualified = true ∧
  (∀ x, s.sup.leaving = some x → x ≠ s.sup.selected ∧ (s.sourceState x).isQualified = true) ∧
  (∀ r, s.retained = some r → SettingsOk r.list r.trims) ∧
  (s.power.supply = .operating ∨ (∃ e, s.power.supply = .powerUp e) → s.retained.isSome = true) ∧
  (s.running = true → ∀ r, s.retained = some r → r.list = s.sup.list ∧ r.trims = s.sup.trims) ∧
  (s.power.supply = .absent → s.power.absence = true) ∧ (s.running = true → s.power.absence = false)

/-- The ports (R148, R154, R157): an IDLE port has no last executed record; a port is WORKING exactly while a
SET_SOURCES wait runs for its host, who is attached and holds the authority. -/
def PortInv (s : State) : Prop :=
  (∀ h, (s.port h).phase = .idle → (s.port h).record = none) ∧
  (∀ h, (∃ op seq, (s.port h).phase = .working op seq) ↔ ∃ w, s.sup.wait = some w ∧ w.host = h) ∧
  ∀ w, s.sup.wait = some w → holder s = some w.host ∧ s.attached w.host = true

end Sys2Proof.Machine
end

