-- ==== Sys2Proof/Certificates/Slice0/Obligations.lean ====
section
/-! DEFINITION. Obligations.lean: the statements for the provers. Each says, from the numbered rules of spec/, what a
command or the whole block does; a clause that rests on a choice of the model names its log entry. -/

open Sys2Proof Sys2Proof.Machine

/-! ### The block as a whole -/

/-- A step carries out the command at the front of the queue with the queue's rest; an empty queue idles (log 5). -/
def Obligations.StepTakesFrontCommand : Prop :=
  (∀ (c : Instr) (rest : List Instr) (s : State), s.pending = c :: rest →
    Sys2Proof.Machine.step s = exec c { s with pending := rest }) ∧
  ∀ s : State, s.pending = [] → Sys2Proof.Machine.step s = .next s

/-- The state after a cold start and main reset (log 29) meets every invariant. -/
def Obligations.ResetMeetsInvariants : Prop :=
  QueueInv State.reset ∧ SystemNoticeInv State.reset ∧ AuthInv State.reset ∧ CaptureInv State.reset ∧
  PoolInv State.reset ∧ SequenceInv State.reset ∧ CountInv State.reset ∧ SupervisorInv State.reset ∧
  PortInv State.reset

/-- Every step keeps the notice queues in order, within 16 notices, and without two of one kind and origin (R88). -/
def Obligations.StepKeepsQueues : Prop :=
  ∀ s t : State, QueueInv s → Sys2Proof.Machine.step s = .next t → QueueInv t

/-- Every step keeps class 4 for system notices, and the classes of timers and subscribers within 0 to 3 (R42, R86,
R134). -/
def Obligations.StepKeepsSystemNotices : Prop :=
  ∀ s t : State, SystemNoticeInv s → Sys2Proof.Machine.step s = .next t → SystemNoticeInv t

/-- Every step keeps at most one holder of the authority, attached, and at most two waiters, distinct, attached, not
the holder (R106). -/
def Obligations.StepKeepsAuthority : Prop :=
  ∀ s t : State, AuthInv s → Sys2Proof.Machine.step s = .next t → AuthInv t

/-- Every step keeps the capture log within 32 records, each owed to somebody, and only to attached subscribers
(R138). -/
def Obligations.StepKeepsCaptureLog : Prop :=
  ∀ s t : State, CaptureInv s → Sys2Proof.Machine.step s = .next t → CaptureInv t

/-- Every step keeps the pool and the pins: owners attached, at most 32 timers a host, fields in range, no ABSOLUTE
timer ARMED in UNSET, armed pins bound to the timer's owner (R41, R42, R47, R122). -/
def Obligations.StepKeepsPool : Prop :=
  ∀ s t : State, PoolInv s → Sys2Proof.Machine.step s = .next t → PoolInv t

/-- Every step keeps the arming sequences of the ARMED timers distinct and below the counter (R62, R63). -/
def Obligations.StepKeepsSequences : Prop :=
  ∀ s t : State, SequenceInv s → Sys2Proof.Machine.step s = .next t → SequenceInv t

/-- Every step keeps the count, its residue, the slew remainder and the retained count in range, and no slew in UNSET
(R1, R6, R16, R168). -/
def Obligations.StepKeepsCount : Prop :=
  ∀ s t : State, CountInv s → Sys2Proof.Machine.step s = .next t → CountInv t

/-- Every step keeps the selected source QUALIFIED, a source OFF exactly while the list does not name it, and the
retained copies equal to the list and the trims (R23, R26, R27, R172); a main-power absence lasts while VMAIN is absent
and is over once the main domain runs (R176). That a source being left is QUALIFIED and not the selected one is log 9 and
log 10, that the retained state is there while VMAIN stands at 2.7 V log 21. -/
def Obligations.StepKeepsSupervisor : Prop :=
  ∀ s t : State, SupervisorInv s → Sys2Proof.Machine.step s = .next t → SupervisorInv t

/-- Every step keeps a port WORKING exactly while a SET_SOURCES wait runs for its host, who holds the authority
(R35). That a port is WORKING for no other request is log 1 (R148, R157). -/
def Obligations.StepKeepsPorts : Prop :=
  ∀ s t : State, PortInv s → Sys2Proof.Machine.step s = .next t → PortInv t

/-! ### Frames and transactions -/

/-- A request frame carries its command: the frame of a command is complete, passes its check and decodes to the
command, whatever follows it; and every known opcode with a payload of an accepted length decodes to a command with
that opcode and payload (R152, R153, R180). -/
def Obligations.FrameCarriesRequest : Prop :=
  (∀ (q : Byte) (r : Request) (extra : List Byte), r.wellFormed = true →
    (encodeFrame q r).length = frameLength r ∧
    ∃ f, parseFrame (encodeFrame q r ++ extra) = some f ∧ f.op = opcodeOf r ∧ f.seq = q ∧
      f.payload = payloadOf r ∧ f.passes = true ∧ knownOpcode f.op = true ∧ decodeRequest f.op f.payload = some r) ∧
  ∀ (op : Byte) (lengths : List Nat) (p : List Byte), (op, lengths) ∈ acceptedLengths → p.length ∈ lengths →
    ∃ r, decodeRequest op p = some r ∧ r.wellFormed = true ∧ opcodeOf r = op ∧ payloadOf r = p

/-- A SEND of a command's frame is the command's row (log 3): the same next state. The sampled levels matter to
SET_SOURCES alone. -/
def Obligations.SendOfFrameIsCommandRow : Prop :=
  ∀ (i : Instr) (h : HostId) (q : Byte) (r : Request) (levels other : Quad Level) (s : State),
    hostCommand i = some (h, q, r, levels) → i.wellFormed = true → (other = levels ∨ ∀ l, r ≠ .setSources l) →
    ∃ t, exec i s = .next t ∧ exec (.send h (encodeFrame q r) other) s = .next t

/-- POLL and FETCH shift out the status byte and turn REFUSED and RUNT off (R149, R150); POLL then shifts out fill
bytes, FETCH the held answer or the NONE frame, followed by fill bytes (R151). The first byte gives the kind: 0xA5 a SEND,
0x5A a FETCH, any other a POLL (R178; a row POLL that is none samples no levels, log 7). A transaction released before its
first byte is complete takes nothing and leaves the flags, and a port whose HRST line is asserted, or that stands in a
main-reset condition, ignores every transaction (R149, R164, R173). What goes out stands in port.shifted (log 25). -/
def Obligations.PollAndFetch : Prop :=
  ∀ (h : HostId) (n : Nat) (s : State),
    (portOpen s h = true → ∀ b more, b ≠ 0xA5 → b ≠ 0x5A →
      ∃ t, exec (.poll h (some b) more) s = .next t ∧ OnlyChanges [.ports] s t ∧ PortFrame h s t ∧
        t.port h = { s.port h with
          refused := false, runt := false, shifted := statusByte s h :: List.replicate more.length 0xFF }) ∧
    (portOpen s h = true →
      ∃ t, exec (.fetch h n) s = .next t ∧ OnlyChanges [.ports] s t ∧ PortFrame h s t ∧
        t.port h = { s.port h with
          refused := false, runt := false
          shifted := statusByte s h :: (((match (s.port h).phase with
            | .answered x => answerBytes x
            | _ => answerBytes ⟨0, 0, .none, []⟩) ++ List.replicate n 0xFF).take n) }) ∧
    (∀ more, exec (.poll h (some 0x5A) more) s = exec (.fetch h more.length) s ∧
      exec (.poll h (some 0xA5) more) s = exec (.send h more noLevels) s) ∧
    ∀ c, (∃ more, c = .poll h none more) ∨
        (portOpen s h = false ∧ ((∃ b more, c = .poll h b more) ∨ c = .fetch h n ∨ (∃ bs levels, c = .send h bs levels) ∨
          ∃ q r levels, hostCommand c = some (h, q, r, levels))) →
      ∃ t, exec c s = .next t ∧ OnlyChanges [.ports] s t ∧ PortFrame h s t ∧
        t.port h = { s.port h with shifted := [] }

/-- A SEND that is not taken as a new request (R153, R154, R155): REFUSED while WORKING, RUNT when the frame is cut
short, BAD_CHECK held when the check fails, the recorded answer held for a retry. In each case nothing but the port
changes, and the status byte and fill bytes have gone out (log 25). -/
def Obligations.SendNotTaken : Prop :=
  ∀ (h : HostId) (bs : List Byte) (levels : Quad Level) (s : State), portOpen s h = true →
    let shown := statusByte s h :: List.replicate bs.length 0xFF
    ((∃ op q, (s.port h).phase = .working op q) →
      ∃ t, exec (.send h bs levels) s = .next t ∧ OnlyChanges [.ports] s t ∧ PortFrame h s t ∧
        t.port h = { s.port h with refused := true, runt := false, shifted := shown }) ∧
    ((∀ op q, (s.port h).phase ≠ .working op q) →
      (parseFrame bs = none →
        ∃ t, exec (.send h bs levels) s = .next t ∧ OnlyChanges [.ports] s t ∧ PortFrame h s t ∧
          t.port h = { s.port h with refused := false, runt := true, shifted := shown }) ∧
      ∀ f, parseFrame bs = some f →
        (f.check ≠ crc16 (f.op :: f.seq :: BitVec.ofNat 8 f.payload.length :: f.payload) →
          ∃ t, exec (.send h bs levels) s = .next t ∧ OnlyChanges [.ports] s t ∧ PortFrame h s t ∧
            t.port h = { s.port h with
              phase := .answered ⟨f.op, f.seq, .badCheck, []⟩, refused := false, runt := false, shifted := shown }) ∧
        (f.passes = true → ∀ x y, (s.port h).phase = .answered x → (s.port h).record = some y →
          y.op = f.op → y.seq = f.seq →
          ∃ t, exec (.send h bs levels) s = .next t ∧ OnlyChanges [.ports] s t ∧ PortFrame h s t ∧
            t.port h = { s.port h with
              phase := .answered y.answer, refused := false, runt := false, shifted := shown }))

/-- A frame taken as a new request whose opcode names no command is answered BAD_OP, one whose payload length the
opcode does not accept BAD_LENGTH; nothing outside the port changes (R156 steps 1 and 2, R180). -/
def Obligations.UnknownRequestsAnswered : Prop :=
  ∀ (h : HostId) (bs : List Byte) (levels : Quad Level) (f : Frame) (s : State),
    parseFrame bs = some f → f.passes = true → Ready h f.op f.seq s →
    ((∀ lengths, (f.op, lengths) ∉ acceptedLengths) →
      ∃ t, exec (.send h bs levels) s = .next t ∧ Answers h f.op f.seq .badOp [] t ∧ RequestFrame h [] s t) ∧
    (∀ lengths, (f.op, lengths) ∈ acceptedLengths → f.payload.length ∉ lengths →
      ∃ t, exec (.send h bs levels) s = .next t ∧ Answers h f.op f.seq .badLength [] t ∧ RequestFrame h [] s t)

/-- Validation steps 3 and 4 (R156, R118): every command but ATTACH and STATUS is answered NOT_ATTACHED for a detached
host, and the six authority-only commands NOT_AUTHORITY for an attached host that is not the holder; nothing outside
the port changes. -/
def Obligations.RefusedAtValidation : Prop :=
  ∀ (i : Instr) (h : HostId) (q : Byte) (r : Request) (levels : Quad Level) (s : State),
    hostCommand i = some (h, q, r, levels) → i.wellFormed = true → Ready h (opcodeOf r) q s →
    (s.attached h = false → r ≠ .attach → r ≠ .status →
      ∃ t, exec i s = .next t ∧ Answers h (opcodeOf r) q .notAttached [] t ∧ RequestFrame h [] s t) ∧
    (s.attached h = true → opcodeOf r ∈ ([0x12, 0x13, 0x14, 0x20, 0x21, 0x70] : List Byte) → holder s ≠ some h →
      ∃ t, exec i s = .next t ∧ Answers h (opcodeOf r) q .notAuthority [] t ∧ RequestFrame h [] s t)

/-! ### Sessions (spec 9.6) -/

/-- ATTACH begins the session, or finds it (R159; without ALREADY the flags byte is sent as 0, log 20); STATUS, ECHO and
SESSIONS report and change nothing outside the port (R161, R162, R163). -/
def Obligations.SessionCommands : Prop :=
  ∀ (h : HostId) (q : Byte) (s : State),
    (Ready h 0x01 q s →
      ∃ t, exec (.attach h q) s = .next t ∧ t.attached h = true ∧
        Answers h 0x01 q .ok [if s.attached h then 1 else 0] t ∧ OnlyChanges [.ports] s t ∧
        (∀ g, g ≠ h → t.port g = s.port g) ∧ (t.port h).hrst = (s.port h).hrst) ∧
    (Ready h 0x03 q s →
      ∃ t, exec (.status h q) s = .next t ∧ RequestFrame h [] s t ∧
        Answers h 0x03 q .ok ([flagCode (s.attached h), setStateCode s.count.setState, hostCode (holder s)]
          ++ byteOf (s.box h).queue.length) t) ∧
    (Takes h 0x04 q s → ∀ data, data.length ≤ 48 →
      ∃ t, exec (.echo h q data) s = .next t ∧ RequestFrame h [] s t ∧ Answers h 0x04 q .ok data t) ∧
    (Takes h 0x05 q s →
      ∃ t, exec (.sessions h q) s = .next t ∧ RequestFrame h [] s t ∧
        Answers h 0x05 q .ok [flagCode (s.attached .a), flagCode (s.attached .b), flagCode (s.attached .c)] t)

/-- DETACH tears the caller down and answers OK with what it released: slots, pins, subscriptions, whether it held the
authority and who holds it now, whether it waited (R160, R165). A caller that did not hold it is sent none in place of
the host it was handed to, without a presence byte (log 20). -/
def Obligations.DetachTearsDown : Prop :=
  ∀ (h : HostId) (q : Byte) (s : State), Takes h 0x02 q s →
    ∃ t, exec (.detach h q) s = .next t ∧ TornDown h s t ∧ (t.port h).hrst = (s.port h).hrst ∧
      Answers h 0x02 q .ok
        (byteOf (allocationCount s h) ++
          byteOf (quadIndices.filter fun p => (s.pin p).any fun r => r.owner = h).length ++
          byteOf (quadIndices.filter fun i => ((s.input i).subscribers.get h).isSome).length ++
          [flagCode (holder s = some h), if holder s = some h then hostCode (holder t) else 0,
            flagCode (s.auth.waiting.any fun w => w.host = h)]) t

/-! ### The time count (spec 01) -/

/-- READ_TIME and TIME_STATUS report the count in every set state and change nothing outside the port (R8, R9). -/
def Obligations.TimeReads : Prop :=
  ∀ (h : HostId) (q : Byte) (s : State),
    (Takes h 0x10 q s →
      ∃ t, exec (.readTime h q) s = .next t ∧ RequestFrame h [] s t ∧
        Answers h 0x10 q .ok
          (timeBytes s.count.time ++ [setStateCode s.count.setState, flagCode (holdover s)]) t) ∧
    (Takes h 0x11 q s →
      ∃ t, exec (.timeStatus h q) s = .next t ∧ RequestFrame h [] s t ∧
        Answers h 0x11 q .ok
          (timeBytes s.count.time ++ [setStateCode s.count.setState, flagCode (holdover s)]
            ++ durationBytes (s.count.slew.tdiv 4294967296) ++ [flagCode (s.count.slew ≠ 0), sourceCode s.sup.selected]
            ++ signedBytes 4 (s.sup.trims.get s.sup.selected)) t)

/-- SET_TIME in UNSET is the first set (R11): the count takes the value with residue 0, SET, handed off with the
time-set flag; ELAPSED deadlines and pulse ends move with it (R49, R129), no timer expires (R83), and every attached
host is posted TIME_STEPPED with FIRST_SET. That stamps of captures yet to be taken move is log 16, that a point already
reached may move below 0 s 0 ns is log 13, and that the difference 0 is sent positive is log 20. -/
def Obligations.FirstSet : Prop :=
  ∀ (h : HostId) (q : Byte) (v : TimeArg) (s : State), TakesAsHolder h 0x12 q s → s.count.setState = .unset →
    v.nanoseconds.toNat ≤ 999999999 →
    let value := v.seconds.toNat * 1000000000 + v.nanoseconds.toNat
    let d : Int := (value : Int) - s.count.time
    ∃ t, exec (.setTime h q v) s = .next t ∧
      t.count = { s.count with time := value, residue := 0, setState := .set } ∧
      t.retained = s.retained.map (fun r => { r with time := value, residue := 0, timeSet := true }) ∧
      (∀ i, t.timer i = (s.timer i).map (movedBy d)) ∧ t.pool.nextSeq = s.pool.nextSeq ∧
      (∀ p, t.pin p = (s.pin p).map (pulseMovedBy d)) ∧
      t.cap = { s.cap with seen := s.cap.seen.map fun e => { e with stamp := e.stamp + d } } ∧
      PostedAll (systemNotice .timeStepped value none (some (.number 0)) ⟨false, holdover s, false, true⟩) s t ∧
      Answers h 0x12 q .ok (List.replicate 19 0) t ∧
      RequestFrame h [.count, .retained, .pool, .pins, .cap, .notices] s t

/-- SET_TIME in RETAINED or SET, and STEP, step the count (R12, R13, R14) with step recognition (R76 to R80), and
answer OK with the amount and the cancelled remainder. Every attached host is posted TIME_STEPPED, then the TIMER notices
of its expiries in the step: those reached before it, not LATE, then those it reached, LATE, each stamped with its
deadline (R69, R78). The pins take the actions of those expiries in that order, a PULSE with its end from the stepped
count (R128). An amount of 0 only zeroes the slew and confirms the time, and is sent positive (log 20). Moved stamps of
captures yet to be taken are log 16, a point moved below 0 s 0 ns is log 13. -/
def Obligations.StepsOfTheCount : Prop :=
  ∀ (h : HostId) (q : Byte) (s : State), s.count.setState ≠ .unset → PeriodsPositive s →
    (∀ v : TimeArg, TakesAsHolder h 0x12 q s → v.nanoseconds.toNat ≤ 999999999 →
      let d : Int := ((v.seconds.toNat * 1000000000 + v.nanoseconds.toNat : Nat) : Int) - s.count.time
      ∃ t, exec (.setTime h q v) s = .next t ∧ Stepped d true s t ∧ PortFrame h s t ∧
        Answers h 0x12 q .ok (amountBytes d ++ durationBytes (s.count.slew.tdiv 4294967296)) t) ∧
    (∀ (v : StepArg) (d : Int), TakesAsHolder h 0x13 q s → v.nanoseconds.toNat ≤ 999999999 →
      (v.sign = 0 ∧ d = (v.seconds.toNat * 1000000000 + v.nanoseconds.toNat : Nat) ∨
        v.sign = 1 ∧ d = -((v.seconds.toNat * 1000000000 + v.nanoseconds.toNat : Nat) : Int)) →
      d.natAbs ≤ 1099511627776000000000 →
      0 ≤ (s.count.time : Int) + d → (s.count.time : Int) + d < 1099511627776000000000 →
      ∃ t, exec (.step h q v) s = .next t ∧ Stepped d false s t ∧ PortFrame h s t ∧
        Answers h 0x13 q .ok (amountBytes d ++ durationBytes (s.count.slew.tdiv 4294967296)) t)

/-- SLEW in RETAINED or SET replaces the slew remainder and reports the one it replaced; nothing else changes
(R16). -/
def Obligations.SlewReplacesRemainder : Prop :=
  ∀ (h : HostId) (q : Byte) (v : BitVec 64) (s : State), TakesAsHolder h 0x14 q s → s.count.setState ≠ .unset →
    -999999999 ≤ v.toInt → v.toInt ≤ 999999999 →
    ∃ t, exec (.slew h q v) s = .next t ∧ t.count = { s.count with slew := v.toInt * 4294967296 } ∧
      RequestFrame h [.count] s t ∧ Answers h 0x14 q .ok (durationBytes (s.count.slew.tdiv 4294967296)) t

/-- The refusals of SET_TIME, STEP and SLEW (R10): NOT_SET for STEP and SLEW in UNSET, RANGE for a value, amount or
result out of range. A refused command changes nothing outside the port. -/
def Obligations.TimeCommandsRefused : Prop :=
  ∀ (h : HostId) (q : Byte) (s : State),
    (∀ v : TimeArg, TakesAsHolder h 0x12 q s → 999999999 < v.nanoseconds.toNat →
      ∃ t, exec (.setTime h q v) s = .next t ∧ Answers h 0x12 q .range [] t ∧ RequestFrame h [] s t) ∧
    (∀ v : StepArg, TakesAsHolder h 0x13 q s →
      (s.count.setState = .unset →
        ∃ t, exec (.step h q v) s = .next t ∧ Answers h 0x13 q .notSet [] t ∧ RequestFrame h [] s t) ∧
      (s.count.setState ≠ .unset →
        (let magnitude := v.seconds.toNat * 1000000000 + v.nanoseconds.toNat;
          999999999 < v.nanoseconds.toNat ∨ 1099511627776000000000 < magnitude ∨ (v.sign ≠ 0 ∧ v.sign ≠ 1) ∨
          (v.sign = 0 ∧ 1099511627776000000000 ≤ s.count.time + magnitude) ∨
          (v.sign = 1 ∧ s.count.time < magnitude)) →
        ∃ t, exec (.step h q v) s = .next t ∧ Answers h 0x13 q .range [] t ∧ RequestFrame h [] s t)) ∧
    (∀ v : BitVec 64, TakesAsHolder h 0x14 q s →
      (s.count.setState = .unset →
        ∃ t, exec (.slew h q v) s = .next t ∧ Answers h 0x14 q .notSet [] t ∧ RequestFrame h [] s t) ∧
      (s.count.setState ≠ .unset → v.toInt < -999999999 ∨ 999999999 < v.toInt →
        ∃ t, exec (.slew h q v) s = .next t ∧ Answers h 0x14 q .range [] t ∧ RequestFrame h [] s t))

/-- An advance, or a gap bridge, that leaves the count in range moves it by its amount, carrying into the seconds; it runs
the lease and hands the count off at a whole-second boundary (R2, R3, R5, R19, R107). An ADVANCE also takes the applied
part off the slew and ends a switch of source (R17, R30); a bridge leaves the slew (R18). Timers, pins and notices stand.
The fraction held over of log 12 is cleared. -/
def Obligations.AdvanceMovesCount : Prop :=
  ∀ (levels : Quad Level) (m : Nat) (s : State),
    let total := s.count.time * 4294967296 + s.count.residue + m
    total < 1099511627776000000000 * 4294967296 →
    let moved (slew : Int) (t : State) : Prop :=
      t.count = { s.count with
        time := total / 4294967296, residue := total % 4294967296, slew := slew, heldResidue := 0 } ∧
      t.auth = { s.auth with holding := s.auth.holding.map fun x => { x with elapsed := x.elapsed + m } } ∧
      t.retained = (if s.count.time / 1000000000 < t.count.time / 1000000000
        then s.retained.map fun r => { r with time := t.count.time, residue := t.count.residue } else s.retained) ∧
      t.cap.log = s.cap.log ∧ t.cap.serial = s.cap.serial
    (s.running = true → m = nextAdvance s →
      ∃ t, exec (.advance levels) s = .next t ∧ moved (s.count.slew - nextSlew s) t ∧
        t.sup = { s.sup with leaving := none } ∧ OnlyChanges [.count, .auth, .sup, .retained, .cap] s t) ∧
    moved s.count.slew (takeAdvance m levels s) ∧
    OnlyChanges [.count, .auth, .retained, .cap] s (takeAdvance m levels s)

/-- An advance, or a gap bridge, that would carry the seconds to 2^40 holds the count at its greatest value with residue 0
(R4). The lease runs on, and what the count did not take is taken off the ELAPSED deadlines and the pulse ends (R49, R73,
R129), in whole nanoseconds, a dropped residue with it (log 12). An ADVANCE also consumes the slew (R4, R17). -/
def Obligations.AdvanceHoldsCount : Prop :=
  ∀ (levels : Quad Level) (m : Nat) (s : State),
    let total := s.count.time * 4294967296 + s.count.residue + m
    1099511627776000000000 * 4294967296 ≤ total →
    let untaken := s.count.heldResidue + (total - 1099511627775999999999 * 4294967296)
    let d : Int := -((untaken / 4294967296 : Nat) : Int)
    let held (slew : Int) (t : State) : Prop :=
      t.count = { s.count with
        time := 1099511627775999999999, residue := 0, slew := slew, heldResidue := untaken % 4294967296 } ∧
      t.auth = { s.auth with holding := s.auth.holding.map fun x => { x with elapsed := x.elapsed + m } } ∧
      (∀ i, t.timer i = (s.timer i).map (movedBy d)) ∧ t.pool.nextSeq = s.pool.nextSeq ∧
      (∀ p, t.pin p = (s.pin p).map (pulseMovedBy d)) ∧
      t.cap.log = s.cap.log ∧ t.cap.serial = s.cap.serial
    (s.running = true → m = nextAdvance s →
      ∃ t, exec (.advance levels) s = .next t ∧ held (s.count.slew - nextSlew s) t ∧
        t.sup = { s.sup with leaving := none } ∧ OnlyChanges [.count, .auth, .sup, .pool, .pins, .cap] s t) ∧
    held s.count.slew (takeAdvance m levels s) ∧
    OnlyChanges [.count, .auth, .pool, .pins, .cap] s (takeAdvance m levels s)

/-- The amount of an advance (R2, R17): the nominal period times (1 + trim / 10^9), rounded toward zero, plus the slew
part or the whole remainder when that is less; it lies between 0.9495 and 1.0505 of the nominal period, and the
remainder loses the applied part without overshoot. -/
def Obligations.AdvanceAmount : Prop :=
  ∀ s : State, (∀ x, -50000000 ≤ s.sup.trims.get x ∧ s.sup.trims.get x ≤ 50000000) →
    let x := s.sup.leaving.getD s.sup.selected
    (nextAdvance s : Int) =
        (nominalPeriod x : Int) * (1000000000 + s.sup.trims.get x) / 1000000000 + nextSlew s ∧
      9495 * nominalPeriod x ≤ 10000 * nextAdvance s ∧ 10000 * nextAdvance s ≤ 10505 * nominalPeriod x ∧
      (nextSlew s).natAbs = min s.count.slew.natAbs (slewPart x) ∧
      (s.count.slew - nextSlew s).natAbs + (nextSlew s).natAbs = s.count.slew.natAbs ∧
      (0 < s.count.slew → 0 ≤ s.count.slew - nextSlew s) ∧ (s.count.slew < 0 → s.count.slew - nextSlew s ≤ 0)

/-- An advance, or a gap bridge, samples every input after the count has moved (R135, R136): an edge is seen when the
sample differs from the sampled level, and accepted when the selection names it and the spacing is absent or has reached
1,000 ns; an accepted edge restarts the spacing and is stamped with the count. The accepted edges wait for their captures
in the order CAP0 to CAP3 (log 16). -/
def Obligations.AdvanceSamplesInputs : Prop :=
  ∀ (levels : Quad Level) (m : Nat) (s : State),
    let spacing (i : CapId) : Option Nat := (s.input i).spacing.map fun e => min (1000 * 4294967296) (e + m)
    let edge (i : CapId) : Option Edge :=
      match (s.input i).sampled, levels.get i, (s.input i).selection with
      | some .low, .high, .rise => some .rising
      | some .low, .high, .both => some .rising
      | some .high, .low, .fall => some .falling
      | some .high, .low, .both => some .falling
      | _, _, _ => none
    let accepted (i : CapId) : Option Edge :=
      if spacing i = none ∨ spacing i = some (1000 * 4294967296) then edge i else none
    let sampled (t : State) : Prop :=
      (∀ i, t.input i = { s.input i with
        sampled := some (levels.get i)
        spacing := if (accepted i).isSome then some 0 else spacing i }) ∧
      t.cap.seen = s.cap.seen ++
        ([0, 1, 2, 3] : List CapId).filterMap fun i => (accepted i).map fun e => ⟨i, e, t.count.time⟩
    (s.running = true → m = nextAdvance s → ∃ t, exec (.advance levels) s = .next t ∧ sampled t) ∧
    sampled (takeAdvance m levels s)

/-! ### Timers (spec 03, 04) -/

/-- ALLOC (R45): NO_SLOT with both counts when the caller owns 32 slots or none is FREE; otherwise the lowest FREE slot
becomes IDLE for the caller with the cleared values, and the answer reports the counts after the grant. -/
def Obligations.AllocGivesLowestFreeSlot : Prop :=
  ∀ (h : HostId) (q : Byte) (s : State), Takes h 0x40 q s →
    (allocationCount s h = 32 ∨ freeCount s = 0 →
      ∃ t, exec (.alloc h q) s = .next t ∧ RequestFrame h [] s t ∧
        Answers h 0x40 q .noSlot (byteOf (allocationCount s h) ++ byteOf (freeCount s)) t) ∧
    (∀ i, allocationCount s h ≠ 32 → s.timer i = none → (∀ j, j < i → s.timer j ≠ none) →
      ∃ t, exec (.alloc h q) s = .next t ∧ RequestFrame h [.pool] s t ∧
        t.timer i = some ⟨h, none, .once, .elapsed, 0, false, none, 0, 0, 0⟩ ∧
        (∀ j, j ≠ i → t.timer j = s.timer j) ∧ t.pool.nextSeq = s.pool.nextSeq ∧
        allocationCount t h = allocationCount s h + 1 ∧ freeCount t + 1 = freeCount s ∧
        Answers h 0x40 q .ok (byteOf i.val ++ byteOf (allocationCount s h + 1) ++ byteOf (freeCount s - 1)) t)

/-- CANCEL (R54): an ARMED timer becomes IDLE with its counts and settings kept, answered OK; an IDLE one is answered
FIRED when its fire count is above 0, otherwise STATE. FREE (R56): the slot becomes FREE, its queued TIMER notice is
removed without raising the drop count, and the answer reports the fire count and DISCARDED (the flags byte is sent as 0
without it, log 20). -/
def Obligations.CancelAndFree : Prop :=
  ∀ (h : HostId) (q slot : Byte) (i : Slot) (x : Timer) (s : State),
    slot.toNat = i.val → s.timer i = some x → x.owner = h →
    (Takes h 0x43 q s →
      (x.armed ≠ none →
        ∃ t, exec (.cancel h q slot) s = .next t ∧ RequestFrame h [.pool] s t ∧
          t.timer i = some { x with armed := none } ∧ (∀ j, j ≠ i → t.timer j = s.timer j) ∧
          t.pool.nextSeq = s.pool.nextSeq ∧ Answers h 0x43 q .ok (bytesOf 2 x.fire ++ bytesOf 2 x.missed) t) ∧
      (x.armed = none →
        ∃ t, exec (.cancel h q slot) s = .next t ∧ RequestFrame h [] s t ∧
          Answers h 0x43 q (if 0 < x.fire then .fired else .state) (bytesOf 2 x.fire ++ bytesOf 2 x.missed) t)) ∧
    (Takes h 0x41 q s →
      ∃ t, exec (.free h q slot) s = .next t ∧ RequestFrame h [.pool, .notices] s t ∧ t.timer i = none ∧
        (∀ j, j ≠ i → t.timer j = s.timer j) ∧ t.pool.nextSeq = s.pool.nextSeq ∧
        (∀ g, t.box g = if g = h then { s.box h with
          queue := (s.box h).queue.filter fun n => !(n.kind = .timer && n.origin = some (.slot i)) } else s.box g) ∧
        Answers h 0x41 q .ok (bytesOf 2 x.fire ++
          [flagCode ((s.box h).queue.any fun n => n.kind = .timer && n.origin = some (.slot i))]) t)

/-- An ARM whose first deadline lies later than the count arms the timer with the settings given, both counts reset, and
a new arming sequence (R48, R49, R51, R63); the answer is that of R52, its flags byte 0 without LATE (log 20). -/
def Obligations.ArmForLater : Prop :=
  ∀ (h : HostId) (q : Byte) (v : ArmArg) (i : Slot) (old : Timer) (x : ArmSettings) (first skipped : Nat) (s : State),
    Takes h 0x42 q s → SequenceInv s → v.slot.toNat = i.val → s.timer i = some old → old.owner = h →
    armSettings v = some x → (x.basis = .absolute → s.count.setState ≠ .unset) →
    (∀ u, x.action = some u → ∃ r, s.pin u.pin = some r ∧ r.owner = h) →
    FirstDeadline x s.count.time first skipped → s.count.time < first →
    ∃ t n, exec (.arm h q v) s = .next t ∧ RequestFrame h [.pool] s t ∧
      t.timer i = some ⟨h, some ⟨first, n⟩, x.kind, x.basis, x.cls, x.notify, x.action, x.tag, 0,
        min 65535 skipped⟩ ∧
      SequenceTaken i n s t ∧
      Answers h 0x42 q .ok
        ([1, 2] ++ timeBytes first ++ [0] ++ bytesOf 2 (min 65535 skipped) ++ bytesOf 2 old.fire ++ [0]) t

/-- An ARM whose first deadline is reached expires the timer in the event (R50): fire count 1, the pin action applied,
the notice posted if notify is yes, LATE for ABSOLUTE ONCE; a ONCE timer stands IDLE, an ELAPSED PERIODIC one ARMED for
the count plus its period. The flags byte of the answer is 0 without LATE (log 20). -/
def Obligations.ArmExpiresAtOnce : Prop :=
  ∀ (h : HostId) (q : Byte) (v : ArmArg) (i : Slot) (old : Timer) (x : ArmSettings) (first : Nat) (s : State),
    Takes h 0x42 q s → SequenceInv s → v.slot.toNat = i.val → s.timer i = some old → old.owner = h →
    armSettings v = some x → (x.basis = .absolute → s.count.setState ≠ .unset) →
    (∀ u, x.action = some u → ∃ r, s.pin u.pin = some r ∧ r.owner = h) →
    FirstDeadline x s.count.time first 0 → first ≤ s.count.time →
    let record (armed : Option Arming) : Timer :=
      ⟨h, armed, x.kind, x.basis, x.cls, x.notify, x.action, x.tag, 1, 0⟩
    let late : Bool := x.basis = .absolute
    ∃ t n, exec (.arm h q v) s = .next t ∧ RequestFrame h [.pool, .pins, .notices] s t ∧ SequenceTaken i n s t ∧
      ActionApplied x.action i s t ∧ ExpiryPosted (record none) (expiryNotice s i (record none) first 1 late) s t ∧
      (x.kind = .once →
        t.timer i = some (record none) ∧
        Answers h 0x42 q .ok
          ([0, 1] ++ List.replicate 9 0 ++ [1, 0, 0] ++ bytesOf 2 old.fire ++ [if late then 2 else 0]) t) ∧
      ∀ p, x.kind = .periodic p →
        t.timer i = some (record (some ⟨s.count.time + p, n⟩)) ∧
        Answers h 0x42 q .ok
          ([1, 2] ++ timeBytes (s.count.time + p) ++ [1, 0, 0] ++ bytesOf 2 old.fire ++ [0]) t

/-- The checks of the slot commands in order (R44, R47): RANGE for a slot above 47, NOT_OWNER for a slot that is FREE or
another host's; for ARM then RANGE for a field out of range, NOT_SET for ABSOLUTE in UNSET, PIN_TAKEN for a pin not bound
to the caller, RANGE for a late PERIODIC deadline beyond the greatest time value. A refused command changes nothing
outside the port. -/
def Obligations.SlotCommandsRefused : Prop :=
  ∀ (h : HostId) (q : Byte) (s : State),
    (∀ c op slot, (∃ v, c = .arm h q v ∧ slot = v.slot ∧ op = 0x42) ∨ (c = .cancel h q slot ∧ op = 0x43) ∨
        (c = .free h q slot ∧ op = 0x41) ∨ (c = .timerStatus h q slot ∧ op = 0x44) →
      Takes h op q s →
      (48 ≤ slot.toNat → ∃ t, exec c s = .next t ∧ Answers h op q .range [] t ∧ RequestFrame h [] s t) ∧
      (∀ i : Slot, slot.toNat = i.val → (∀ x, s.timer i = some x → x.owner ≠ h) →
        ∃ t, exec c s = .next t ∧ Answers h op q .notOwner [] t ∧ RequestFrame h [] s t)) ∧
    (∀ (v : ArmArg) (i : Slot) (old : Timer), Takes h 0x42 q s → v.slot.toNat = i.val → s.timer i = some old →
      old.owner = h →
      (¬ArmFieldsOk v → ∃ t, exec (.arm h q v) s = .next t ∧ Answers h 0x42 q .range [] t ∧ RequestFrame h [] s t) ∧
      (ArmFieldsOk v → v.basis = 0 → s.count.setState = .unset →
        ∃ t, exec (.arm h q v) s = .next t ∧ Answers h 0x42 q .notSet [] t ∧ RequestFrame h [] s t) ∧
      (ArmFieldsOk v → (v.basis = 0 → s.count.setState ≠ .unset) →
        (∀ p a, v.pinAction = some (p, a) → ∀ k : PinId, p.toNat = k.val → ∀ r, s.pin k = some r → r.owner ≠ h) →
        v.pinAction ≠ none →
        ∃ t, exec (.arm h q v) s = .next t ∧ Answers h 0x42 q .pinTaken [] t ∧ RequestFrame h [] s t) ∧
      (ArmFieldsOk v → v.basis = 0 → v.kind = 1 → s.count.setState ≠ .unset →
        (∀ p a, v.pinAction = some (p, a) → ∃ (k : PinId) (r : PinRecord), p.toNat = k.val ∧ s.pin k = some r ∧
          r.owner = h) →
        (let start := v.when.toNat / 4294967296 * 1000000000 + v.when.toNat % 4294967296;
          start ≤ s.count.time ∧ ∀ k, s.count.time < start + k * v.period.toNat →
            1099511627776000000000 ≤ start + k * v.period.toNat) →
        ∃ t, exec (.arm h q v) s = .next t ∧ Answers h 0x42 q .range [] t ∧ RequestFrame h [] s t))

/-- The deadline queue holds the ARMED timers, each once, in order of their deadlines, equal deadlines in order of their
arming sequences, at most 48 of them (R61). -/
def Obligations.DeadlineQueueInOrder : Prop :=
  ∀ s : State,
    (∀ e, e ∈ deadlineQueue s ↔ ∃ x a, s.timer e.slot = some x ∧ x.armed = some a ∧
      e.deadline = a.deadline ∧ e.seq = a.seq) ∧
    ((deadlineQueue s).map (·.slot)).Nodup ∧ (deadlineQueue s).length ≤ 48 ∧
    (deadlineQueue s).Pairwise fun x y => x.deadline < y.deadline ∨ (x.deadline = y.deadline ∧ x.seq ≤ y.seq)

/-- EXPIRY (R65, R67 to R71): when the head of the deadline queue is reached, its fire count rises, its pin action is
applied, its notice is posted if notify is yes, not LATE, stamped with the deadline; a ONCE timer goes IDLE, a PERIODIC
one takes its next deadline later than the count, skipped periods counted as missed, or goes IDLE when it is ABSOLUTE
and that deadline lies beyond the greatest time value. With no head reached nothing changes (log 4); the stamp of a
deadline below 0 s 0 ns is open (log 13). -/
def Obligations.ExpiryOfHead : Prop :=
  ∀ s : State, s.running = true →
    ((∀ e, (deadlineQueue s).head? = some e → s.count.time < e.deadline) → exec .expiry s = .next s) ∧
    (∀ e x, (deadlineQueue s).head? = some e → e.deadline ≤ s.count.time → s.timer e.slot = some x →
      (∀ p, x.kind = .periodic p → 1 ≤ p) →
      let fire := min 65535 (x.fire + 1)
      ∃ t, exec .expiry s = .next t ∧ OnlyChanges [.pool, .pins, .notices] s t ∧
        (∀ j, j ≠ e.slot → t.timer j = s.timer j) ∧ t.pool.nextSeq = s.pool.nextSeq ∧
        ActionApplied x.action e.slot s t ∧
        ExpiryPosted x (expiryNotice s e.slot x e.deadline fire false) s t ∧
        (x.kind = .once → t.timer e.slot = some { x with fire := fire, armed := none }) ∧
        ∀ p, x.kind = .periodic p → ∃ k : Nat,
          let next := e.deadline + p + k * p
          s.count.time < next ∧ (k ≠ 0 → next ≤ s.count.time + p) ∧
          t.timer e.slot = some { x with
            fire := fire, missed := min 65535 (x.missed + k)
            armed := if x.basis = .absolute ∧ 1099511627776000000000 ≤ next then none else some ⟨next, e.seq⟩ })

/-! ### Notices and outputs (spec 05, 07) -/

/-- Posting (R89 to R92): nothing at a detached host; a queued notice of the same kind and origin takes the new one by
merging in its place, its repeat raised, the flags or-ed, the detail for TIME_STEPPED the sum saturating at +-2^62, for
AUTH_WANTED as before, otherwise that of the new notice (R90); with fewer than 16 notices the new one is placed behind
those of its class or higher; at 16 it evicts the last notice when that is of a lower class, and is otherwise discarded,
the drop count rising. -/
def Obligations.PostingToQueue : Prop :=
  ∀ (h : HostId) (n : Notice) (s : State), QueueInv s →
    (s.attached h = false → post h n s = s) ∧
    (s.attached h = true →
      let x := s.box h
      let same (y : Notice) : Bool := y.kind = n.kind ∧ y.origin = n.origin
      let t := post h n s
      (∀ g, g ≠ h → t.box g = s.box g) ∧ OnlyChanges [.notices] s t ∧
      (t.box h).inHand = x.inHand ∧ (t.box h).threshold = x.threshold ∧
      (∀ y, y ∈ x.queue → same y = true →
        (t.box h).drops = x.drops ∧
        (t.box h).queue = x.queue.map fun z => if same z then { z with
            count := min 255 (z.count + 1)
            flags := ⟨z.flags.late || n.flags.late, z.flags.holdover || n.flags.holdover,
              z.flags.retained || n.flags.retained, z.flags.firstSet || n.flags.firstSet⟩
            detail := match z.kind, z.detail, n.detail with
              | .timeStepped, some (.number a), some (.number b) =>
                some (.number (max (-4611686018427387904) (min 4611686018427387904 (a + b))))
              | .authWanted, _, _ => z.detail
              | _, _, _ => n.detail } else z) ∧
      ((∀ y, y ∈ x.queue → same y = false) → x.queue.length < 16 →
        (t.box h).drops = x.drops ∧
        (t.box h).queue = (x.queue.filter fun z => n.cls ≤ z.cls) ++ n :: (x.queue.filter fun z => z.cls < n.cls)) ∧
      ((∀ y, y ∈ x.queue → same y = false) → x.queue.length = 16 → ∀ q y, x.queue = q ++ [y] →
        (t.box h).drops = min 65535 (x.drops + 1) ∧
        (t.box h).queue = if y.cls < n.cls
          then (q.filter fun z => n.cls ≤ z.cls) ++ n :: (q.filter fun z => z.cls < n.cls) else x.queue))

/-- A notice of class 4 posted to an attached host is never evicted or discarded (R93): it stands in the queue, or in
the notice it merged into, and every class 4 notice queued before still does. -/
def Obligations.SystemNoticesAreKept : Prop :=
  ∀ (h : HostId) (n : Notice) (s : State), QueueInv s → SystemNoticeInv s → s.attached h = true → SystemShape n →
    n.cls = 4 →
    (∃ y ∈ ((post h n s).box h).queue, y.cls = 4 ∧ y.kind = n.kind ∧ y.origin = n.origin) ∧
    ∀ x ∈ (s.box h).queue, x.cls = 4 →
      ∃ y ∈ ((post h n s).box h).queue, y.cls = 4 ∧ y.kind = x.kind ∧ y.origin = x.origin

/-- TAKE (R97): IN_HAND with the notice in hand again, EMPTY, or OK with the head moved to the in-hand slot. ACK (R98)
empties the in-hand slot, or answers STATE. PEEK (R100) reports and clears the drop count. -/
def Obligations.TakeAckAndPeek : Prop :=
  ∀ (h : HostId) (q : Byte) (s : State),
    (Takes h 0x50 q s →
      (∀ n, (s.box h).inHand = some n →
        ∃ t, exec (.take h q) s = .next t ∧ RequestFrame h [] s t ∧
          Answers h 0x50 q .inHand (noticeBytes n ++ byteOf (s.box h).queue.length) t) ∧
      ((s.box h).inHand = none → (s.box h).queue = [] →
        ∃ t, exec (.take h q) s = .next t ∧ RequestFrame h [] s t ∧ Answers h 0x50 q .empty [0] t) ∧
      (∀ n rest, (s.box h).inHand = none → (s.box h).queue = n :: rest →
        ∃ t, exec (.take h q) s = .next t ∧ RequestFrame h [.notices] s t ∧
          (∀ g, t.box g = if g = h then { s.box h with queue := rest, inHand := some n } else s.box g) ∧
          Answers h 0x50 q .ok (noticeBytes n ++ byteOf rest.length) t)) ∧
    (Takes h 0x51 q s →
      (∀ n, (s.box h).inHand = some n →
        ∃ t, exec (.ack h q) s = .next t ∧ RequestFrame h [.notices] s t ∧
          (∀ g, t.box g = if g = h then { s.box h with inHand := none } else s.box g) ∧
          Answers h 0x51 q .ok
            ([flagCode n.origin.isSome, noticeKindCode n.kind, (n.origin.map originCode).getD 0]
              ++ byteOf (s.box h).queue.length) t) ∧
      ((s.box h).inHand = none →
        ∃ t, exec (.ack h q) s = .next t ∧ RequestFrame h [] s t ∧ Answers h 0x51 q .state [] t)) ∧
    (Takes h 0x52 q s →
      ∃ t, exec (.peek h q) s = .next t ∧ RequestFrame h [.notices] s t ∧
        (∀ g, t.box g = if g = h then { s.box h with drops := 0 } else s.box g) ∧
        Answers h 0x52 q .ok
          (([if (s.box h).queue = [] then 0 else 3] : List Byte) ++ byteOf (s.box h).queue.length ++
            (match (s.box h).queue with
              | [] => [0, 0]
              | n :: _ => [noticeKindCode n.kind] ++ byteOf n.cls) ++
            [flagCode (s.box h).inHand.isSome] ++ bytesOf 2 (s.box h).drops ++ byteOf (s.box h).threshold) t)

/-- SET_THRESHOLD takes 0 to 5 and reports the threshold it replaced and the level of the line after the change (R99;
the level is sent as 1 when asserted, log 26); any other value is RANGE, and nothing changes. -/
def Obligations.SetThresholdJudgesLine : Prop :=
  ∀ (h : HostId) (q v : Byte) (s : State), Takes h 0x53 q s →
    (v.toNat ≤ 5 →
      ∃ t, exec (.setThreshold h q v) s = .next t ∧ RequestFrame h [.notices] s t ∧
        (∀ g, t.box g = if g = h then { s.box h with threshold := v.toNat } else s.box g) ∧
        Answers h 0x53 q .ok (byteOf (s.box h).threshold ++ [flagCode (irqAsserted t h)]) t) ∧
    (5 < v.toNat →
      ∃ t, exec (.setThreshold h q v) s = .next t ∧ RequestFrame h [] s t ∧ Answers h 0x53 q .range [] t)

/-- IRQx is asserted exactly when no main-reset condition holds, host x is attached, and the head of its queue has a
class of at least its threshold; it is not driven while VMAIN is absent (R101, R102). A bound pin is driven at its
level, an unbound one is not, and no pin is driven while a main-reset condition holds (R122). A data out line is driven
only under its select and where the port takes transactions, at high impedance otherwise, and not driven while VMAIN is
absent (R164, R167, R173, R178). The XO oscillator is powered while XO is not OFF and no main-power absence lasts, which
it does to the main reset (R21, R176, log 31). -/
def Obligations.OutputsFollowState : Prop :=
  ∀ s : State, QueueInv s →
    (∀ h, s.power.supply ≠ .absent →
      (irqLine s h = .asserted ↔ s.running = true ∧ s.attached h = true ∧
        ∃ n rest, (s.box h).queue = n :: rest ∧ (s.box h).threshold ≤ n.cls) ∧
      (irqLine s h = .asserted ∨ irqLine s h = .deasserted)) ∧
    (∀ h, s.power.supply = .absent → irqLine s h = .notDriven) ∧
    (∀ p r, s.running = true → s.pin p = some r → pinOutput s p = .driven r.level) ∧
    (∀ p, s.running = true → s.pin p = none → pinOutput s p = .pulledDown) ∧
    (∀ p, s.running = false → s.power.supply ≠ .absent → pinOutput s p = .pulledDown) ∧
    (∀ p, s.power.supply = .absent → pinOutput s p = .notDriven) ∧
    (∀ h, s.running = true → (s.port h).hrst = false → dataOut s h true = .driven) ∧
    (∀ h selected, s.power.supply ≠ .absent → selected = false ∨ (s.port h).hrst = true ∨ s.running = false →
      dataOut s h selected = .highImpedance) ∧
    (∀ h selected, s.power.supply = .absent → dataOut s h selected = .notDriven) ∧
    (xoPowered s = true ↔ s.power.absence = false ∧ s.sup.xo ≠ .off)

/-- BIND_PIN (R123): RANGE, PIN_TAKEN naming the owner, or the pin bound to the caller at its idle level with any pulse
ended. UNBIND_PIN (R124): NOT_OWNER, IN_USE with the number of the caller's ARMED timers that name the pin and the lowest
slot, or the pin unbound. The codes of a last action in the answer are free values (log 19); which fields of the record
have a presence bit, and the flags byte without ALREADY, are log 20. -/
def Obligations.BindAndUnbindPin : Prop :=
  ∀ (h : HostId) (q pin : Byte) (s : State),
    (Takes h 0x60 q s → ∀ (idle : Byte) (width : BitVec 16),
      (4 ≤ pin.toNat ∨ 2 ≤ idle.toNat ∨ width = 0 →
        ∃ t, exec (.bindPin h q pin idle width) s = .next t ∧ RequestFrame h [] s t ∧ Answers h 0x60 q .range [] t) ∧
      ∀ p : PinId, pin.toNat = p.val → idle.toNat ≤ 1 → width ≠ 0 →
        (∀ r, s.pin p = some r → r.owner ≠ h →
          ∃ t, exec (.bindPin h q pin idle width) s = .next t ∧ RequestFrame h [] s t ∧
            Answers h 0x60 q .pinTaken [hostCode (some r.owner)] t) ∧
        ((∀ r, s.pin p = some r → r.owner = h) →
          let level : Level := if idle = 0 then .low else .high
          ∃ t, exec (.bindPin h q pin idle width) s = .next t ∧ RequestFrame h [.pins] s t ∧
            (∀ k, t.pin k = if k = p
              then some ⟨h, level, level, width.toNat, none, some ⟨none, .bindPin, s.count.time⟩⟩ else s.pin k) ∧
            Answers h 0x60 q .ok
              ([2, hostCode (some h), idle, idle] ++ bytesOf 2 width.toNat ++ List.replicate 9 0 ++
                [Config.bindPinActionCode, Config.bindPinOriginCode] ++ timeBytes s.count.time ++
                [flagCode (s.pin p).isSome]) t)) ∧
    (Takes h 0x61 q s →
      (4 ≤ pin.toNat →
        ∃ t, exec (.unbindPin h q pin) s = .next t ∧ RequestFrame h [] s t ∧ Answers h 0x61 q .range [] t) ∧
      ∀ p : PinId, pin.toNat = p.val →
        ((∀ r, s.pin p = some r → r.owner ≠ h) →
          ∃ t, exec (.unbindPin h q pin) s = .next t ∧ RequestFrame h [] s t ∧ Answers h 0x61 q .notOwner [] t) ∧
        ∀ r, s.pin p = some r → r.owner = h →
          let naming := allSlots.filter fun i => (s.timer i).any fun x =>
            decide (x.owner = h) && x.armed.isSome && x.action.any fun u => u.pin = p
          (∀ i more, naming = i :: more →
            ∃ t, exec (.unbindPin h q pin) s = .next t ∧ RequestFrame h [] s t ∧
              Answers h 0x61 q .inUse (byteOf naming.length ++ byteOf i.val) t) ∧
          (naming = [] →
            ∃ t, exec (.unbindPin h q pin) s = .next t ∧ RequestFrame h [.pins] s t ∧
              (∀ k, t.pin k = if k = p then none else s.pin k) ∧ Answers h 0x61 q .ok [levelCode r.level] t))

/-- DRIVE_PIN (R125, R127, R128): NOT_OWNER, RANGE, or the action applied: SET high, CLEAR low, TOGGLE the other level,
each ending any pulse; PULSE the level opposite to idle, with its end the width later. PULSE_END (R129): a reached end
returns the pin to its idle level; otherwise nothing changes (log 4). The code for started or restarted is a free value
(log 19). -/
def Obligations.DrivePinAndPulseEnd : Prop :=
  (∀ (h : HostId) (q pin action : Byte) (s : State), Takes h 0x62 q s →
    (4 ≤ pin.toNat →
      ∃ t, exec (.drivePin h q pin action) s = .next t ∧ RequestFrame h [] s t ∧ Answers h 0x62 q .range [] t) ∧
    ∀ p : PinId, pin.toNat = p.val →
      ((∀ r, s.pin p = some r → r.owner ≠ h) →
        ∃ t, exec (.drivePin h q pin action) s = .next t ∧ RequestFrame h [] s t ∧
          Answers h 0x62 q .notOwner [] t) ∧
      ∀ r, s.pin p = some r → r.owner = h →
        (action = 0 ∨ 4 < action.toNat →
          ∃ t, exec (.drivePin h q pin action) s = .next t ∧ RequestFrame h [] s t ∧ Answers h 0x62 q .range [] t) ∧
        ∀ (x : PinAction) (level : Level) (pulse : Option Nat),
          (x = .set ∧ action = 1 ∧ level = .high ∧ pulse = none) ∨
            (x = .clear ∧ action = 2 ∧ level = .low ∧ pulse = none) ∨
            (x = .toggle ∧ action = 3 ∧ level = r.level.flip ∧ pulse = none) ∨
            (x = .pulse ∧ action = 4 ∧ level = r.idle.flip ∧ pulse = some (s.count.time + r.width * 1000)) →
          ∃ t, exec (.drivePin h q pin action) s = .next t ∧ RequestFrame h [.pins] s t ∧
            (∀ k, t.pin k = if k = p
              then some { r with
                level := level, pulseEnd := pulse.map fun e => (e : Int), last := some ⟨some x, .drivePin, s.count.time⟩ }
              else s.pin k) ∧
            Answers h 0x62 q .ok
              ([if x = .pulse then 3 else 0, levelCode r.level, levelCode level,
                flagCode (r.pulseEnd.isSome && pulse.isNone),
                if x = .pulse then Config.pulseStartCode r.pulseEnd.isSome else 0] ++
                (match pulse with
                  | some e => timeBytes e
                  | none => List.replicate 9 0)) t) ∧
  ∀ (p : PinId) (s : State), s.running = true →
    (∀ r e, s.pin p = some r → r.pulseEnd = some e → e ≤ s.count.time →
      ∃ t, exec (.pulseEnd p) s = .next t ∧ OnlyChanges [.pins] s t ∧
        ∀ k, t.pin k = if k = p then some { r with level := r.idle, pulseEnd := none } else s.pin k) ∧
    ((∀ r e, s.pin p = some r → r.pulseEnd = some e → s.count.time < e) → exec (.pulseEnd p) s = .next s)

/-- TIMER_STATUS, PIN_STATUS and SOURCE_STATUS report the timer record with the counts (R58, R181), the pin record with
the ARMED timers naming it (R126), and the supervisor (R37), and change nothing outside the port. The codes of a last
action are free values (log 19), as is what is shown of a point below 0 s 0 ns (log 13) and of a remaining time that a
signed 8-byte duration cannot hold (log 30); the wait is one optional field (log 20). -/
def Obligations.StatusReads : Prop :=
  ∀ (h : HostId) (q : Byte) (s : State),
    let left (t : Int) : List Byte :=
      if t - s.count.time < 9223372036854775808 then durationBytes (max 0 (t - s.count.time))
      else bytesOf 8 (Config.longRemaining (t - s.count.time).toNat).toNat
    (Takes h 0x44 q s → ∀ (slot : Byte) (i : Slot) (x : Timer), slot.toNat = i.val → s.timer i = some x → x.owner = h →
      let period : Option Nat := match x.kind with
        | .once => none
        | .periodic p => some p
      ∃ t, exec (.timerStatus h q slot) s = .next t ∧ RequestFrame h [] s t ∧
        Answers h 0x44 q .ok
          (byteOf i.val ++ [hostCode (some h), if x.armed.isSome then 2 else 1,
              flagCode period.isSome + 2 * flagCode x.action.isSome + 12 * flagCode x.armed.isSome, kindCode x.kind,
              basisCode x.basis] ++ byteOf x.cls ++ [flagCode x.notify] ++ bytesOf 2 x.tag.toNat ++
            durationBytes (period.getD 0) ++
            [(x.action.map fun u => BitVec.ofNat 8 u.pin.val).getD 0,
              (x.action.map fun u => actionCode u.action).getD 0] ++
            (match x.armed with
              | some a => timeBytes (timeValue a.deadline) ++ left a.deadline
              | none => List.replicate 17 0) ++
            bytesOf 2 x.fire ++ bytesOf 2 x.missed ++ byteOf (allocationCount s h) ++ byteOf (freeCount s)) t) ∧
    (Takes h 0x63 q s → ∀ pin : Byte,
      (4 ≤ pin.toNat →
        ∃ t, exec (.pinStatus h q pin) s = .next t ∧ RequestFrame h [] s t ∧ Answers h 0x63 q .range [] t) ∧
      ∀ p : PinId, pin.toNat = p.val →
        let naming := allSlots.filter fun i => (s.timer i).any fun x =>
          x.armed.isSome && x.action.any fun u => u.pin = p
        (s.pin p = none →
          ∃ t, exec (.pinStatus h q pin) s = .next t ∧ RequestFrame h [] s t ∧
            Answers h 0x63 q .ok (List.replicate 36 0 ++ byteOf naming.length) t) ∧
        (∀ r, s.pin p = some r →
          ∃ t, exec (.pinStatus h q pin) s = .next t ∧ RequestFrame h [] s t ∧
            Answers h 0x63 q .ok
              ([7 + 24 * flagCode r.pulseEnd.isSome + 32 * flagCode r.last.isSome, hostCode (some r.owner), 1,
                  levelCode r.idle] ++ bytesOf 2 r.width ++ [levelCode r.level, flagCode r.pulseEnd.isSome] ++
                (match r.pulseEnd with
                  | some e => timeBytes (timeValue e) ++ left e
                  | none => List.replicate 17 0) ++
                (match r.last with
                  | some x => [lastActionCode x.action, actionOriginCode x.origin] ++ timeBytes x.time
                  | none => List.replicate 11 0) ++ byteOf naming.length) t)) ∧
    (Takes h 0x22 q s →
      let window (x : SourceState) : Option Nat := match x with
        | .window e _ => some ((16000000 * 4294967296 - e + (1000 * 4294967296 - 1)) / (1000 * 4294967296))
        | _ => none
      let holdOff (x : SourceState) : Option Nat := match x with
        | .qualified (.running e) _ =>
          some ((4000000000 * 4294967296 - e + (1000000 * 4294967296 - 1)) / (1000000 * 4294967296))
        | .qualified .elapsed _ => some 0
        | _ => none
      let four (x : Option Nat) : List Byte := bytesOf 4 (x.getD 0)
      let bit (x : Option Nat) (k : Byte) : Byte := if x.isSome then k else 0
      ∃ t, exec (.sourceStatus h q) s = .next t ∧ RequestFrame h [] s t ∧
        Answers h 0x22 q .ok
          ([bit (window s.sup.xo) 1 + bit (window s.sup.ext) 2 + bit (holdOff s.sup.xo) 4 + bit (holdOff s.sup.ext) 8 +
              (if s.sup.wait.isSome then 16 else 0),
              sourceStateCode s.sup.xo, sourceStateCode s.sup.ext, 3] ++
            four (window s.sup.xo) ++ four (window s.sup.ext) ++ four (holdOff s.sup.xo) ++ four (holdOff s.sup.ext) ++
            listBytes s.sup.list ++ [sourceCode s.sup.selected, flagCode (holdover s)] ++
            signedBytes 4 s.sup.trims.xo ++ signedBytes 4 s.sup.trims.ext ++ signedBytes 4 s.sup.trims.rc ++
            (match s.sup.wait with
              | some w => hostCode (some w.host) ::
                  bytesOf 4 ((200000000 * 4294967296 - w.elapsed + (1000000 * 4294967296 - 1)) / (1000000 * 4294967296))
              | none => List.replicate 5 0)) t)

/-! ### Time authority (spec 06) -/

/-- CLAIM (R108): RANGE outside 1 to 600 s; a grant when the authority is free, a renewal by the holder, a place in the
waiting list with AUTH_WANTED to the holder, or the place already held (sent in one byte, log 20). -/
def Obligations.ClaimAsksForAuthority : Prop :=
  ∀ (h : HostId) (q : Byte) (v : BitVec 16) (s : State), Takes h 0x30 q s →
    let lease := v.toNat
    (lease = 0 ∨ 600 < lease →
      ∃ t, exec (.claim h q v) s = .next t ∧ RequestFrame h [] s t ∧ Answers h 0x30 q .range [] t) ∧
    (1 ≤ lease → lease ≤ 600 →
      (s.auth.holding = none →
        ∃ t, exec (.claim h q v) s = .next t ∧ RequestFrame h [.auth, .notices] s t ∧
          t.auth = { s.auth with holding := some ⟨h, lease, 0⟩ } ∧ PostedTo h (grantedNotice s lease) s t ∧
          Answers h 0x30 q .ok (hostCode (some h) :: bytesOf 2 lease) t) ∧
      (holder s = some h →
        ∃ t, exec (.claim h q v) s = .next t ∧ RequestFrame h [.auth] s t ∧
          t.auth = { s.auth with holding := some ⟨h, lease, 0⟩ } ∧
          Answers h 0x30 q .ok (hostCode (some h) :: bytesOf 2 lease) t) ∧
      (∀ g, holder s = some g → g ≠ h → (∀ w ∈ s.auth.waiting, w.host ≠ h) →
        ∃ t, exec (.claim h q v) s = .next t ∧ RequestFrame h [.auth, .notices] s t ∧
          t.auth = { s.auth with waiting := s.auth.waiting ++ [⟨h, lease⟩] } ∧
          PostedTo g (systemNotice .authWanted s.count.time (some (.host h)) none (conditionFlags s)) s t ∧
          Answers h 0x30 q .queued
            ([hostCode (some g)] ++ byteOf (s.auth.waiting.length + 1) ++ bytesOf 2 lease) t) ∧
      (∀ g ahead asked behind, holder s = some g → g ≠ h → s.auth.waiting = ahead ++ ⟨h, asked⟩ :: behind →
        (∀ w ∈ ahead, w.host ≠ h) →
        ∃ t, exec (.claim h q v) s = .next t ∧ RequestFrame h [] s t ∧
          Answers h 0x30 q .queued ([hostCode (some g)] ++ byteOf (ahead.length + 1) ++ bytesOf 2 asked) t))

/-- RELEASE by the holder hands the authority to the head waiter with its lease and AUTH_GRANTED, or to none, and
answers OK with the new holder; from any other host it is answered NOT_AUTHORITY and nothing changes (R110, R111). A
holder that can send it has no SET_SOURCES wait running (R157). -/
def Obligations.ReleaseHandsOver : Prop :=
  ∀ (h : HostId) (q : Byte) (s : State), Takes h 0x31 q s →
    (holder s = some h → (∀ w, s.sup.wait = some w → w.host ≠ h) →
      ∃ t, exec (.release h q) s = .next t ∧ RequestFrame h [.auth, .notices] s t ∧
        HandedOver s.auth.waiting (fun _ => False) s t ∧
        Answers h 0x31 q .ok [hostCode (s.auth.waiting.head?.map (·.host))] t) ∧
    (holder s ≠ some h →
      ∃ t, exec (.release h q) s = .next t ∧ RequestFrame h [] s t ∧ Answers h 0x31 q .notAuthority [] t)

/-- WITHDRAW takes the caller off the waiting list and reports the list, or answers STATE (R112). AUTH_STATUS reports the
arbiter and changes nothing outside the port (R117; the caller's position is sent in one byte, log 20). -/
def Obligations.WithdrawAndAuthStatus : Prop :=
  ∀ (h : HostId) (q : Byte) (s : State),
    (Takes h 0x32 q s →
      (∀ ahead asked behind, s.auth.waiting = ahead ++ ⟨h, asked⟩ :: behind → (∀ w ∈ ahead ++ behind, w.host ≠ h) →
        ∃ t, exec (.withdraw h q) s = .next t ∧ RequestFrame h [.auth] s t ∧
          t.auth = { s.auth with waiting := ahead ++ behind } ∧
          Answers h 0x32 q .ok (waitingBytes (ahead ++ behind)) t) ∧
      ((∀ w ∈ s.auth.waiting, w.host ≠ h) →
        ∃ t, exec (.withdraw h q) s = .next t ∧ RequestFrame h [] s t ∧ Answers h 0x32 q .state [] t)) ∧
    (Takes h 0x33 q s →
      let place := s.auth.waiting.findIdx? fun w => w.host = h
      ∃ t, exec (.authStatus h q) s = .next t ∧ RequestFrame h [] s t ∧
        Answers h 0x33 q .ok
          ([(if s.auth.holding.isSome then 3 else 0) + (if place.isSome then 4 else 0), hostCode (holder s),
              flagCode (holder s = some h)] ++
            (match s.auth.holding with
              | some x => bytesOf 2 x.lease ++ bytesOf 4
                  ((x.lease * 1000000000 * 4294967296 - x.elapsed + (1000000 * 4294967296 - 1)) /
                    (1000000 * 4294967296))
              | none => List.replicate 6 0) ++
            waitingBytes s.auth.waiting ++ byteOf ((place.map (· + 1)).getD 0)) t)

/-- LEASE_EXPIRY (R107, R113): once the lease elapsed has reached the lease, the holder loses the authority with
AUTH_LOST, it is handed over, and a SET_SOURCES wait of the old holder ends with REVOKED (R36). Before that, nothing
changes (log 4). -/
def Obligations.LeaseExpiryHandsOver : Prop :=
  ∀ (x : Holding) (s : State), s.running = true → AuthInv s →
    (s.auth.holding = none → exec .leaseExpiry s = .next s) ∧
    (s.auth.holding = some x →
      (x.elapsed < x.lease * 1000000000 * 4294967296 → exec .leaseExpiry s = .next s) ∧
      (x.lease * 1000000000 * 4294967296 ≤ x.elapsed →
        let lost := systemNotice .authLost s.count.time none (some .expired) (conditionFlags s)
        ∃ t, exec .leaseExpiry s = .next t ∧ HandedOver s.auth.waiting (· = x.host) s t ∧
          t.box x.host = (s.box x.host).post lost ∧
          ((∀ w, s.sup.wait = some w → w.host ≠ x.host) → OnlyChanges [.auth, .notices] s t) ∧
          ∀ w op q, s.sup.wait = some w → w.host = x.host → (s.port x.host).phase = .working op q →
            OnlyChanges [.auth, .notices, .sup, .ports] s t ∧ t.sup = { s.sup with wait := none } ∧
            (∀ g, g ≠ x.host → t.port g = s.port g) ∧
            t.port x.host = { s.port x.host with
              phase := .answered ⟨op, q, .revoked, [sourceCode s.sup.selected]⟩
              record := some ⟨op, q, ⟨op, q, .revoked, [sourceCode s.sup.selected]⟩⟩ }))

/-! ### Sources (spec 02) -/

/-- RC_CYCLE runs the supervisor's durations by the trimmed period of RC (R22, R24, R25), each until it has reached its
length; a window or hold-off stops at a detected loss (log 8). Before the main reset it runs the power-up delay
untrimmed (R173). SOURCE_EDGE restarts loss detection, and starts the window of a waiting or FAILED source (R23); that an
edge after the loss is detected, and before it is taken, leaves the measurement as it stands is log 8. -/
def Obligations.CyclesAndEdges : Prop :=
  (∀ s : State, s.running = true →
    let a := trimmedPeriod .rc s.sup.trims.rc
    let loss (m : Nat) : Nat := if m < 2000 * 4294967296 then m + a else m
    let run (length m e : Nat) : Nat := if m < 2000 * 4294967296 ∧ e < length then e + a else e
    ∃ t, exec .rcCycle s = .next t ∧ OnlyChanges [.sup] s t ∧
      (∀ w, t.watched w = match s.watched w with
        | .window e m => .window (run (16000000 * 4294967296) m e) (loss m)
        | .qualified (.running e) m => .qualified (.running (run (4000000000 * 4294967296) m e)) (loss m)
        | .qualified .elapsed m => .qualified .elapsed (loss m)
        | x => x) ∧
      t.sup = { s.sup with
        xo := t.sup.xo, ext := t.sup.ext
        wait := s.sup.wait.map fun w =>
          { w with elapsed := if w.elapsed < 200000000 * 4294967296 then w.elapsed + a else w.elapsed } }) ∧
  (∀ (e : Nat) (s : State), s.power.supply = .powerUp e →
    exec .rcCycle s = .next { s with power := { s.power with
      supply := .powerUp (if e < 2000000 * 4294967296 then e + 268435456000 else e) } }) ∧
  ∀ (w : Watched) (s : State), s.running = true →
    let restart (m : Nat) : Nat := if m < 2000 * 4294967296 then 0 else m
    ∃ t, exec (.sourceEdge w) s = .next t ∧ OnlyChanges [.sup] s t ∧
      t.watched w = (match s.watched w with
        | .off => .off
        | .waiting => .window 0 0
        | .window e m => .window e (restart m)
        | .qualified x m => .qualified x (restart m)
        | .failed => .window 0 0) ∧
      t.sup = { s.sup with xo := t.sup.xo, ext := t.sup.ext } ∧ ∀ v, v ≠ w → t.watched v = s.watched v

/-- SOURCE_LOSS (R23, R24, R28, R35): a source whose loss is detected goes FAILED. The selected source fails over: the
count takes the bridge, the first QUALIFIED source in list order is selected, and SOURCE with cause LOSS is posted. The
loss of the head ends a running wait with FALLBACK. Without a detected loss nothing changes (log 4); a source being left
that is lost is awaited no more, nor one that a failover finds being left (log 9); the flag RETAINED of SOURCE is log 15. -/
def Obligations.SourceLossFailsOver : Prop :=
  ∀ (w : Watched) (levels : Quad Level) (s : State), s.running = true →
    let since := (s.watched w).sinceEdge
    ((∀ m, since = some m → m < 2000 * 4294967296) → exec (.sourceLoss w levels) s = .next s) ∧
    (∀ m, since = some m → 2000 * 4294967296 ≤ m →
      (s.sup.selected = w.source → s.sup.wait = none ∨ s.sup.list.head? ≠ some w.source →
        let next := ((if .rc ∈ s.sup.list then s.sup.list else s.sup.list ++ [.rc]).find? fun x =>
          x ≠ w.source && (s.sourceState x).isQualified).getD .rc
        ∃ t, exec (.sourceLoss w levels) s = .next t ∧ Bridged m levels s t ∧
          t.retained = (takeAdvance m levels s).retained ∧ t.watched w = .failed ∧
          t.sup = { s.sup with
            xo := t.sup.xo, ext := t.sup.ext, selected := next, leaving := none, startUp := false } ∧
          (∀ v, v ≠ w → t.watched v = s.watched v) ∧
          PostedAll (systemNotice .source t.count.time none (some (.source next .loss))
            ⟨false, s.sup.list.head? ≠ some next, s.count.setState = .retained, false⟩) s t ∧
          t.ports = s.ports ∧ t.power = s.power ∧ t.pending = s.pending) ∧
      (s.sup.selected ≠ w.source →
        ∃ t, exec (.sourceLoss w levels) s = .next t ∧ t.watched w = .failed ∧
          (∀ v, v ≠ w → t.watched v = s.watched v) ∧
          (s.sup.list.head? ≠ some w.source ∨ s.sup.wait = none →
            OnlyChanges [.sup] s t ∧ t.sup = { s.sup with
              xo := t.sup.xo, ext := t.sup.ext
              leaving := if s.sup.leaving = some w.source then none else s.sup.leaving }) ∧
          ∀ x op q, s.sup.list.head? = some w.source → s.sup.wait = some x →
            (s.port x.host).phase = .working op q →
            OnlyChanges [.sup, .ports] s t ∧ t.sup = { s.sup with
              xo := t.sup.xo, ext := t.sup.ext, wait := none
              leaving := if s.sup.leaving = some w.source then none else s.sup.leaving } ∧
            (∀ g, g ≠ x.host → t.port g = s.port g) ∧
            t.port x.host = { s.port x.host with
              phase := .answered ⟨op, q, .fallback, [sourceCode s.sup.selected, 4]⟩
              record := some ⟨op, q, ⟨op, q, .fallback, [sourceCode s.sup.selected, 4]⟩⟩ }))

/-- QUALIFICATION (R25): a source whose window has run 16 ms goes QUALIFIED with its hold-off at its start. The head of a
running wait is selected at once with cause COMMAND and answers OK (R35); in the start-up phase an earlier source is
selected without a notice (R39); the source it takes over from gives one more advance (R30; the one still driving the
count, log 9). A window that has not run
changes nothing (log 4). The flag RETAINED of SOURCE is log 15. -/
def Obligations.QualificationSelects : Prop :=
  ∀ (w : Watched) (s : State), s.running = true →
    let driving := s.sup.leaving.getD s.sup.selected
    let left : Option Source := if driving = w.source then none else some driving
    ((∀ e m, s.watched w = .window e m → e < 16000000 * 4294967296) → exec (.qualification w) s = .next s) ∧
    (∀ e m, s.watched w = .window e m → 16000000 * 4294967296 ≤ e →
      ∃ t, exec (.qualification w) s = .next t ∧ t.watched w = .qualified (.running 0) m ∧
        (∀ v, v ≠ w → t.watched v = s.watched v) ∧
        (∀ x op q, s.sup.wait = some x → s.sup.list.head? = some w.source → s.sup.selected ≠ w.source →
          (s.port x.host).phase = .working op q →
          OnlyChanges [.sup, .ports, .notices] s t ∧
          t.sup = { s.sup with
            xo := t.sup.xo, ext := t.sup.ext, selected := w.source, leaving := left, startUp := false, wait := none } ∧
          PostedAll (systemNotice .source s.count.time none (some (.source w.source .command))
            ⟨false, false, s.count.setState = .retained, false⟩) s t ∧
          (∀ g, g ≠ x.host → t.port g = s.port g) ∧
          t.port x.host = { s.port x.host with
            phase := .answered ⟨op, q, .ok, [sourceCode w.source]⟩
            record := some ⟨op, q, ⟨op, q, .ok, [sourceCode w.source]⟩⟩ }) ∧
        ((s.sup.wait = none ∨ s.sup.list.head? ≠ some w.source) →
          OnlyChanges [.sup] s t ∧
          t.sup = (if s.sup.startUp = true ∧ standsEarlier s.sup.list w.source s.sup.selected = true
            then { s.sup with
              xo := t.sup.xo, ext := t.sup.ext, selected := w.source, leaving := left, startUp := false }
            else { s.sup with xo := t.sup.xo, ext := t.sup.ext })))

/-- HOLD_OFF_END (R29): a hold-off that has run 4 s is marked elapsed, and a source earlier than the selected one is
selected with SOURCE, cause REVERT. WAIT_TIMEOUT (R35): a wait that has run 200 ms ends with FALLBACK, naming the
selected source and the state of the head. Before that, nothing changes (log 4). The source being left after a revert is
the one that still drives the count, also when another was selected in between (log 9). The flag RETAINED of SOURCE is
log 15. -/
def Obligations.HoldOffEndAndWaitTimeout : Prop :=
  (∀ (w : Watched) (s : State), s.running = true →
    let driving := s.sup.leaving.getD s.sup.selected
    ((∀ e m, s.watched w = .qualified (.running e) m → e < 4000000000 * 4294967296) →
      exec (.holdOffEnd w) s = .next s) ∧
    (∀ e m, s.watched w = .qualified (.running e) m → 4000000000 * 4294967296 ≤ e →
      ∃ t, exec (.holdOffEnd w) s = .next t ∧ t.watched w = .qualified .elapsed m ∧
        (∀ v, v ≠ w → t.watched v = s.watched v) ∧
        (standsEarlier s.sup.list w.source s.sup.selected = false →
          OnlyChanges [.sup] s t ∧ t.sup = { s.sup with xo := t.sup.xo, ext := t.sup.ext }) ∧
        (standsEarlier s.sup.list w.source s.sup.selected = true →
          OnlyChanges [.sup, .notices] s t ∧
          t.sup = { s.sup with
            xo := t.sup.xo, ext := t.sup.ext, selected := w.source
            leaving := if driving = w.source then none else some driving, startUp := false } ∧
          PostedAll (systemNotice .source s.count.time none (some (.source w.source .revert))
            ⟨false, s.sup.list.head? ≠ some w.source, s.count.setState = .retained, false⟩) s t))) ∧
  ∀ s : State, s.running = true →
    ((∀ x, s.sup.wait = some x → x.elapsed < 200000000 * 4294967296) → exec .waitTimeout s = .next s) ∧
    (∀ x op q head, s.sup.wait = some x → 200000000 * 4294967296 ≤ x.elapsed →
      (s.port x.host).phase = .working op q → s.sup.list.head? = some head →
      let answer : Answer :=
        ⟨op, q, .fallback, [sourceCode s.sup.selected, sourceStateCode (s.sourceState head)]⟩
      ∃ t, exec .waitTimeout s = .next t ∧ OnlyChanges [.sup, .ports] s t ∧
        t.sup = { s.sup with wait := none } ∧ (∀ g, g ≠ x.host → t.port g = s.port g) ∧
        t.port x.host = { s.port x.host with phase := .answered answer, record := some ⟨op, q, answer⟩ })

/-- SET_TRIM (R32): RANGE for a source other than XO, EXT and RC or a trim out of range; otherwise the entry and its
retained copy become the trim, and the answer reports the entry replaced. -/
def Obligations.SetTrimWritesEntry : Prop :=
  ∀ (h : HostId) (q source : Byte) (trim : BitVec 32) (s : State), TakesAsHolder h 0x20 q s →
    (source = 0 ∨ 3 < source.toNat ∨ trim.toInt < -50000000 ∨ 50000000 < trim.toInt →
      ∃ t, exec (.setTrim h q source trim) s = .next t ∧ RequestFrame h [] s t ∧ Answers h 0x20 q .range [] t) ∧
    (∀ x : Source, source = sourceCode x → -50000000 ≤ trim.toInt → trim.toInt ≤ 50000000 →
      ∃ t, exec (.setTrim h q source trim) s = .next t ∧ RequestFrame h [.sup, .retained] s t ∧
        t.sup = { s.sup with trims := t.sup.trims } ∧
        (∀ y, t.sup.trims.get y = if y = x then trim.toInt else s.sup.trims.get y) ∧
        t.retained = s.retained.map (fun r => { r with trims := r.trims.set x trim.toInt }) ∧
        Answers h 0x20 q .ok (signedBytes 4 (s.sup.trims.get x)) t)

/-- SET_SOURCES (R33 to R35): RANGE for an entry count of 0 or above 3, and for an entry among that many that is not XO,
EXT or RC (1 to 3) or stands twice; bytes beyond the count are not examined (R180). Otherwise the list of the entries is
stored with its copy, the sources it names start and the others go OFF, and the five cases of R34 select: the head kept,
the head selected, the first QUALIFIED source when the selected one is no longer named (RC is always named, log 14), an
earlier source with its hold-off elapsed, or the selection kept; the first two answer OK, the others start the wait with
the port WORKING. A bridge at the store is log 10 and log 11, the flag RETAINED of SOURCE log 15. That a selection while
another source is being left goes on awaiting that one, and that a store taking the selected source OFF drops the last
advance of another being left, is log 9. -/
def Obligations.SetSourcesStoresAndSelects : Prop :=
  ∀ (h : HostId) (q : Byte) (v : ListArg) (levels : Quad Level) (s : State), TakesAsHolder h 0x21 q s →
    let entries := [v.first, v.second, v.third].take v.count.toNat
    (v.count = 0 ∨ 3 < v.count.toNat ∨ (∃ b ∈ entries, b = 0 ∨ 3 < b.toNat) ∨ ¬entries.Nodup →
      ∃ t, exec (.setSources h q v levels) s = .next t ∧ RequestFrame h [] s t ∧ Answers h 0x21 q .range [] t) ∧
    ∀ (l : List Source) (head : Source),
      l.length = v.count.toNat → l.map sourceCode = entries → l.Nodup → l.head? = some head →
      let all := if .rc ∈ l then l else l ++ [.rc]
      let waits (chosen : Option Source) : Prop :=
        ∃ t, exec (.setSources h q v levels) s = .next t ∧ Stored l chosen true h levels s t ∧ PortFrame h s t ∧
          t.port h = { s.port h with
            phase := .working 0x21 q, refused := false, runt := false, shifted := (t.port h).shifted }
      (head = s.sup.selected →
        ∃ t, exec (.setSources h q v levels) s = .next t ∧ Stored l none false h levels s t ∧ PortFrame h s t ∧
          Answers h 0x21 q .ok [sourceCode head] t) ∧
      (head ≠ s.sup.selected → (stateUnder l s head).isQualified = true →
        ∃ t, exec (.setSources h q v levels) s = .next t ∧ Stored l (some head) false h levels s t ∧
          PortFrame h s t ∧ Answers h 0x21 q .ok [sourceCode head] t) ∧
      (head ≠ s.sup.selected → (stateUnder l s head).isQualified = false →
        (s.sup.selected ∉ all → ∀ x, all.find? (fun y => (stateUnder l s y).isQualified) = some x → waits (some x)) ∧
        (s.sup.selected ∈ all →
          let earlier (y : Source) : Bool :=
            decide (all.idxOf y < all.idxOf s.sup.selected) && (stateUnder l s y).holdOffElapsed
          (∀ x, all.find? earlier = some x → waits (some x)) ∧ (all.find? earlier = none → waits none)))

/-! ### Captures (spec 08) -/

/-- CAPTURE (R139, R140) of the oldest accepted edge yet to be taken: with no subscribers nothing but that edge goes;
otherwise a full log discards its oldest record, raising the gap counters of the hosts it owed, the record is appended
with the subscriber set as its owed set, and each subscriber is posted its CAPTURE notice. With no edge nothing changes
(log 4). The list of accepted edges with their stamps, and that the spacing started at the sampling and not here, are log
16; a stamp below 0 s 0 ns is shown as log 13. -/
def Obligations.CaptureMakesRecord : Prop :=
  ∀ s : State, s.running = true →
    (s.cap.seen = [] → exec .capture s = .next s) ∧
    (∀ e rest, s.cap.seen = e :: rest →
      let x := s.input e.input
      ((∀ h, x.subscribers.get h = none) →
        exec .capture s = .next { s with cap := { s.cap with seen := rest } }) ∧
      ((∃ h, x.subscribers.get h ≠ none) →
        let full : Bool := 32 ≤ s.cap.log.length
        let lost (i : CapId) (h : HostId) : Bool :=
          full && s.cap.log.head?.any fun r => decide (r.input = i) && r.owed.get h
        let record : CapRecord :=
          ⟨s.cap.serial, e.input, e.edge, timeValue e.stamp, s.sup.selected, holdover s, s.count.setState = .retained,
            s.count.setState = .unset, ⟨x.subscribers.a.isSome, x.subscribers.b.isSome, x.subscribers.c.isSome⟩⟩
        ∃ t, exec .capture s = .next t ∧ OnlyChanges [.cap, .notices] s t ∧
          t.cap.log = (if full then s.cap.log.tail else s.cap.log) ++ [record] ∧
          t.cap.serial = (s.cap.serial + 1) % 65536 ∧ t.cap.seen = rest ∧
          (∀ i, t.input i = { s.input i with gaps := (t.input i).gaps } ∧
            ∀ h, (t.input i).gaps.get h =
              if lost i h then min 255 ((s.input i).gaps.get h + 1) else (s.input i).gaps.get h) ∧
          ∀ h, t.box h = match x.subscribers.get h with
            | none => s.box h
            | some cls =>
              let owing := t.cap.log.filter fun r => decide (r.input = e.input) && r.owed.get h
              if s.attached h then (s.box h).post
                ⟨.capture, cls, (owing.head?.map (·.stamp)).getD 0, some (.input e.input), none, 1,
                  some (.number owing.length), ⟨false, holdover s, s.count.setState = .retained, false⟩⟩
              else s.box h))

/-- SET_EDGES (R137) stores the selection and reports the one it replaced; SUBSCRIBE (R142) joins the subscriber set or
changes the class, with ALREADY and the class replaced, an optional field (log 20). Out of range: RANGE, and nothing
changes. -/
def Obligations.SetEdgesAndSubscribe : Prop :=
  ∀ (h : HostId) (q input : Byte) (s : State),
    (TakesAsHolder h 0x70 q s → ∀ selection : Byte,
      (4 ≤ input.toNat ∨ 4 ≤ selection.toNat →
        ∃ t, exec (.setEdges h q input selection) s = .next t ∧ RequestFrame h [] s t ∧
          Answers h 0x70 q .range [] t) ∧
      ∀ (i : CapId) (x : EdgeSelection), input.toNat = i.val → selection = selectionCode x →
        ∃ t, exec (.setEdges h q input selection) s = .next t ∧ RequestFrame h [.cap] s t ∧
          (∀ j, t.input j = if j = i then { s.input i with selection := x } else s.input j) ∧
          t.cap = { s.cap with inputs := t.cap.inputs } ∧
          Answers h 0x70 q .ok [selectionCode (s.input i).selection] t) ∧
    (Takes h 0x71 q s → ∀ cls : Byte,
      (4 ≤ input.toNat ∨ 4 ≤ cls.toNat →
        ∃ t, exec (.subscribe h q input cls) s = .next t ∧ RequestFrame h [] s t ∧ Answers h 0x71 q .range [] t) ∧
      ∀ i : CapId, input.toNat = i.val → cls.toNat ≤ 3 →
        ∃ t, exec (.subscribe h q input cls) s = .next t ∧ RequestFrame h [.cap] s t ∧
          (∀ j, t.input j = if j = i
            then { s.input i with subscribers := (s.input i).subscribers.set h (some cls.toNat) } else s.input j) ∧
          t.cap = { s.cap with inputs := t.cap.inputs } ∧
          Answers h 0x71 q .ok (match (s.input i).subscribers.get h with
            | none => [0, 0, 0]
            | some old => [1] ++ byteOf old ++ [1]) t)

/-- UNSUBSCRIBE (R143): RANGE, STATE, or the caller off the input, its owed records and its gap counter gone, answered
with what it was owed. READ_CAPTURE (R144): RANGE, or the oldest record that owes the caller read, leaving the log when
it then owes no one, the gap counters asked for reported and cleared; EMPTY when no record owes it. -/
def Obligations.UnsubscribeAndReadCapture : Prop :=
  ∀ (h : HostId) (q : Byte) (s : State),
    let empty (r : CapRecord) : Bool := !(r.owed.a || r.owed.b || r.owed.c)
    (Takes h 0x72 q s → ∀ input : Byte,
      (4 ≤ input.toNat →
        ∃ t, exec (.unsubscribe h q input) s = .next t ∧ RequestFrame h [] s t ∧ Answers h 0x72 q .range [] t) ∧
      ∀ i : CapId, input.toNat = i.val →
        ((s.input i).subscribers.get h = none →
          ∃ t, exec (.unsubscribe h q input) s = .next t ∧ RequestFrame h [] s t ∧ Answers h 0x72 q .state [] t) ∧
        ((s.input i).subscribers.get h ≠ none → (∀ r ∈ s.cap.log, empty r = false) →
          ∃ t, exec (.unsubscribe h q input) s = .next t ∧ RequestFrame h [.cap] s t ∧
            (∀ j, t.input j = if j = i then { s.input i with
              subscribers := (s.input i).subscribers.set h none, gaps := (s.input i).gaps.set h 0 }
              else s.input j) ∧
            t.cap.log = (s.cap.log.map fun r =>
              if r.input = i then { r with owed := r.owed.set h false } else r).filter (fun r => !empty r) ∧
            t.cap.serial = s.cap.serial ∧ t.cap.seen = s.cap.seen ∧
            Answers h 0x72 q .ok
              (byteOf (s.cap.log.filter fun r => decide (r.input = i) && r.owed.get h).length ++
                byteOf ((s.input i).gaps.get h)) t)) ∧
    (Takes h 0x73 q s → ∀ which : Byte,
      (4 ≤ which.toNat → which ≠ 0xFF →
        ∃ t, exec (.readCapture h q which) s = .next t ∧ RequestFrame h [] s t ∧ Answers h 0x73 q .range [] t) ∧
      ((which.toNat < 4 ∨ which = 0xFF) →
        let asked (i : CapId) : Bool := which = 0xFF || which.toNat = i.val
        let owing (r : CapRecord) : Bool := r.owed.get h && asked r.input
        let gaps : List Byte :=
          (if which = 0xFF then 15 else BitVec.ofNat 8 (2 ^ which.toNat)) ::
            ([0, 1, 2, 3] : List CapId).map fun i =>
              if asked i then BitVec.ofNat 8 ((s.input i).gaps.get h) else 0
        (∃ t, exec (.readCapture h q which) s = .next t ∧ RequestFrame h [.cap] s t ∧
          (∀ i, t.input i = if asked i then { s.input i with gaps := (s.input i).gaps.set h 0 } else s.input i) ∧
          t.cap.serial = s.cap.serial ∧ t.cap.seen = s.cap.seen ∧
          ((∀ r ∈ s.cap.log, owing r = false) →
            t.cap.log = s.cap.log ∧ Answers h 0x73 q .empty ([0, 0] ++ gaps) t) ∧
          ∀ before r after, s.cap.log = before ++ r :: after → (∀ x ∈ before, owing x = false) → owing r = true →
            (let left : CapRecord := { r with owed := r.owed.set h false };
              t.cap.log = before ++ (if empty left then [] else [left]) ++ after) ∧
            Answers h 0x73 q .ok
              (captureBytes r ++
                byteOf (t.cap.log.filter fun x => decide (x.input = r.input) && x.owed.get h).length ++
                byteOf (t.cap.log.filter fun x => x.owed.get h).length ++ gaps) t)))

/-! ### Lines and power (spec 9.7, 10) -/

/-- HRST_ASSERT (R164, R166): a new assertion tears down an attached host and returns its port to IDLE with no record and
no flags; a repeated one is no event. HRST_RELEASE opens the port again. While the main domain does not run, only the
level of the line is followed (log 22). The bytes last shifted out are cleared (log 25). -/
def Obligations.HostResetLine : Prop :=
  ∀ (h : HostId) (s : State),
    ((s.port h).hrst = true → exec (.hrstAssert h) s = .next s) ∧
    ((s.port h).hrst = false → s.running = true → s.attached h = true →
      ∃ t, exec (.hrstAssert h) s = .next t ∧ TornDown h s t ∧
        t.port h = ⟨.idle, none, false, false, false, true, []⟩) ∧
    ((s.port h).hrst = false → s.running = true → s.attached h = false →
      ∃ t, exec (.hrstAssert h) s = .next t ∧ OnlyChanges [.ports] s t ∧ (∀ g, g ≠ h → t.port g = s.port g) ∧
        t.port h = ⟨.idle, none, false, false, false, true, []⟩) ∧
    ((s.port h).hrst = false → s.running = false →
      ∃ t, exec (.hrstAssert h) s = .next t ∧ OnlyChanges [.ports] s t ∧ (∀ g, g ≠ h → t.port g = s.port g) ∧
        t.port h = { s.port h with hrst := true, shifted := [] }) ∧
    ∃ t, exec (.hrstRelease h) s = .next t ∧ OnlyChanges [.ports] s t ∧ (∀ g, g ≠ h → t.port g = s.port g) ∧
      t.port h = { s.port h with hrst := false }

/-- What begins a main-reset condition (R173): VMAIN rising from absence, a brown-out, RESETn low; VMAIN at 2.7 V then
starts the power-up delay, or starts it anew. VMAIN at 2.7 V after the retained state was lost brings the cold start with
it (R169, R177, log 21), with the cold-start values of R20 in the main domain (log 23). While the condition holds the main
domain takes no event. A VMAIN_RISE while VMAIN is absent changes nothing (log 4), and RESETn is followed at all times
(log 22). -/
def Obligations.MainResetCondition : Prop :=
  ∀ s : State,
    let cold : Retained := ⟨0, 0, false, ⟨0, 0, 0⟩, [.xo, .rc]⟩
    let begins (c : Instr) (supply : Supply) (retained : Option Retained) : Prop :=
      ∃ t, exec c s = .next t ∧ OnlyChanges [.power, .retained] s t ∧
        t.power = { s.power with supply := supply } ∧ t.retained = retained ∧ t.running = false
    (s.power.supply = .absent →
      begins (.mainResetConditionBegin .powerUp) .low s.retained ∧
      exec .vmainRise s = .next s) ∧
    (s.power.supply = .operating ∨ (∃ e, s.power.supply = .powerUp e) →
      begins (.mainResetConditionBegin .brownOut) .low s.retained) ∧
    (s.power.supply = .low → s.retained ≠ none → begins .vmainRise (.powerUp 0) s.retained) ∧
    (s.power.supply = .low → s.retained = none →
      ∃ t, exec .vmainRise s = .next t ∧ t.power = { s.power with supply := .powerUp 0 } ∧ t.running = false ∧
        MainResetValues cold { s with retained := some cold } t) ∧
    (∀ e, s.power.supply = .powerUp e → begins .vmainRise (.powerUp 0) s.retained) ∧
    (∃ t, exec (.mainResetConditionBegin .resetPin) s = .next t ∧ OnlyChanges [.power] s t ∧
      t.power = { s.power with resetLow := true } ∧ t.running = false) ∧
    (s.running = false → ∀ c, (∃ l, c = .advance l) ∨ c = .expiry ∨ (∃ p, c = .pulseEnd p) ∨ c = .capture ∨
        c = .leaseExpiry ∨ (∃ w, c = .sourceEdge w) ∨ (∃ w l, c = .sourceLoss w l) ∨ (∃ w, c = .qualification w) ∨
        (∃ w, c = .holdOffEnd w) ∨ c = .waitTimeout →
      exec c s = .next s)

/-- The main reset (R173, R174): taken when the last cause of the condition ends, by the end of the power-up delay with
RESETn high, or by the release of RESETn with VMAIN operating. Every block takes its main-reset values, and the count,
the trims and the list are restored from the retained domain; a main-power absence is over (R176). While another cause
stands, only the cause ends. A
POWER_UP_DELAY_END before its 2 ms and a RESETN_RELEASE of a released line change nothing (log 4). The levels of HRSTx are
kept (log 22), the bytes last shifted out cleared (log 25), and no source is being left (log 9). -/
def Obligations.MainResetRestores : Prop :=
  ∀ (r : Retained) (s : State), s.retained = some r →
    (∀ e, s.power.supply = .powerUp e → 2000000 * 4294967296 ≤ e →
      ∃ t, exec .powerUpDelayEnd s = .next t ∧ t.power = { s.power with supply := .operating, absence := s.power.absence && s.power.resetLow } ∧
        (s.power.resetLow = false → MainResetValues r s t) ∧
        (s.power.resetLow = true → OnlyChanges [.power] s t)) ∧
    (∀ e, s.power.supply = .powerUp e → e < 2000000 * 4294967296 → exec .powerUpDelayEnd s = .next s) ∧
    (s.power.resetLow = true →
      ∃ t, exec .resetnRelease s = .next t ∧
        t.power = { s.power with
          resetLow := false, absence := decide (s.power.supply ≠ .operating) && s.power.absence } ∧
        (s.power.supply = .operating → MainResetValues r s t) ∧
        (s.power.supply ≠ .operating → OnlyChanges [.power] s t)) ∧
    (s.power.resetLow = false → exec .resetnRelease s = .next s)

/-- The retained domain (R169, R170, R176, R177): VMAIN_LOSS takes the main domain and leaves the retained one (the
main-domain values then are log 23) for a main-power absence; LP_CYCLE adds one nominal LP period, held at the greatest time value; a loss of both
supplies loses the retained state; the next cold start begins at 0 s 0 ns, time not set, trims 0 and list (XO, RC), and
leaves the main domain at its cold-start values (R20; log 23). A COLD_START while the retained state stands, and an
LP_CYCLE without it, change nothing (log 4). The levels of HRSTx are kept (log 22). -/
def Obligations.RetainedDomain : Prop :=
  ∀ s : State,
    (s.power.supply ≠ .absent →
      ∃ t, exec .vmainLoss s = .next t ∧ t.power = { s.power with supply := .absent, absence := true } ∧
        t.retained = s.retained ∧ t.pending = s.pending ∧ t.running = false ∧ ∀ h, t.attached h = false ∧ (t.port h).hrst = (s.port h).hrst) ∧
    (∀ r, s.retained = some r →
      let total := r.time * 4294967296 + r.residue + 131072000000000
      ∃ t, exec .lpCycle s = .next t ∧ OnlyChanges [.retained] s t ∧
        t.retained = some (if total < 1099511627776000000000 * 4294967296
          then { r with time := total / 4294967296, residue := total % 4294967296 }
          else { r with time := 1099511627775999999999, residue := 0 })) ∧
    (s.retained = none → exec .lpCycle s = .next s) ∧
    (s.power.supply = .absent ∨ s.power.supply = .low →
      ∃ t, exec .retainedStateLoss s = .next t ∧ OnlyChanges [.retained] s t ∧ t.retained = none) ∧
    (s.retained = none →
      let cold : Retained := ⟨0, 0, false, ⟨0, 0, 0⟩, [.xo, .rc]⟩
      ∃ t, exec .coldStart s = .next t ∧ t.power = s.power ∧
        MainResetValues cold { s with retained := some cold } t) ∧
    (s.retained ≠ none → exec .coldStart s = .next s)
end

