-- ==== Sys2Proof/Laws/State.lean ====
section
/-! SUPPORT. Laws/State.lean: what each named update of the state leaves and what it changes, field by field. -/

namespace Sys2Proof

@[simp] theorem PerHost.get_set_self {α : Type} (v : PerHost α) (h : HostId) (x : α) : (v.set h x).get h = x := by
  cases h <;> rfl

theorem PerHost.get_set_of_ne {α : Type} (v : PerHost α) {g h : HostId} (x : α) (hne : g ≠ h) :
    (v.set h x).get g = v.get g := by
  cases g <;> cases h <;> first | rfl | exact absurd rfl hne

theorem PerHost.get_set {α : Type} (v : PerHost α) (g h : HostId) (x : α) :
    (v.set h x).get g = if g = h then x else v.get g := by
  cases g <;> cases h <;> rfl

@[simp] theorem PerHost.get_const {α : Type} (x : α) (h : HostId) : (PerHost.const x).get h = x := by
  cases h <;> rfl

theorem PerHost.ext_get {α : Type} {v w : PerHost α} (e : ∀ h, v.get h = w.get h) : v = w := by
  cases v; cases w
  have ha := e .a
  have hb := e .b
  have hc := e .c
  simp only [PerHost.get] at ha hb hc
  subst ha hb hc
  rfl

@[simp] theorem PerHost.set_get_self {α : Type} (v : PerHost α) (h : HostId) : v.set h (v.get h) = v := by
  cases h <;> rfl

@[simp] theorem PerHost.set_set {α : Type} (v : PerHost α) (h : HostId) (x y : α) :
    (v.set h x).set h y = v.set h y := by
  cases h <;> rfl

@[simp] theorem Quad.get_set_self {α : Type} (v : Quad α) (i : Fin 4) (x : α) : (v.set i x).get i = x := by
  match i with
  | 0 => rfl
  | 1 => rfl
  | 2 => rfl
  | 3 => rfl

theorem Quad.get_set {α : Type} (v : Quad α) (i j : Fin 4) (x : α) :
    (v.set i x).get j = if j = i then x else v.get j := by
  match i, j with
  | 0, 0 => rfl
  | 0, 1 => rfl
  | 0, 2 => rfl
  | 0, 3 => rfl
  | 1, 0 => rfl
  | 1, 1 => rfl
  | 1, 2 => rfl
  | 1, 3 => rfl
  | 2, 0 => rfl
  | 2, 1 => rfl
  | 2, 2 => rfl
  | 2, 3 => rfl
  | 3, 0 => rfl
  | 3, 1 => rfl
  | 3, 2 => rfl
  | 3, 3 => rfl

@[simp] theorem Quad.get_map {α β : Type} (f : α → β) (v : Quad α) (i : Fin 4) : (v.map f).get i = f (v.get i) := by
  match i with
  | 0 => rfl
  | 1 => rfl
  | 2 => rfl
  | 3 => rfl

@[simp] theorem Quad.get_const {α : Type} (x : α) (i : Fin 4) : (Quad.const x).get i = x := by
  match i with
  | 0 => rfl
  | 1 => rfl
  | 2 => rfl
  | 3 => rfl

namespace Machine.State

variable (s : State)

@[simp] theorem setTimer_count (i : Slot) (x : Option Timer) : (s.setTimer i x).count = s.count := rfl
@[simp] theorem setTimer_sup (i : Slot) (x : Option Timer) : (s.setTimer i x).sup = s.sup := rfl
@[simp] theorem setTimer_notices (i : Slot) (x : Option Timer) : (s.setTimer i x).notices = s.notices := rfl
@[simp] theorem setTimer_auth (i : Slot) (x : Option Timer) : (s.setTimer i x).auth = s.auth := rfl
@[simp] theorem setTimer_pins (i : Slot) (x : Option Timer) : (s.setTimer i x).pins = s.pins := rfl
@[simp] theorem setTimer_cap (i : Slot) (x : Option Timer) : (s.setTimer i x).cap = s.cap := rfl
@[simp] theorem setTimer_ports (i : Slot) (x : Option Timer) : (s.setTimer i x).ports = s.ports := rfl
@[simp] theorem setTimer_retained (i : Slot) (x : Option Timer) : (s.setTimer i x).retained = s.retained := rfl
@[simp] theorem setTimer_power (i : Slot) (x : Option Timer) : (s.setTimer i x).power = s.power := rfl
@[simp] theorem setTimer_pending (i : Slot) (x : Option Timer) : (s.setTimer i x).pending = s.pending := rfl
@[simp] theorem setTimer_box (i : Slot) (x : Option Timer) (g : HostId) : (s.setTimer i x).box g = s.box g := rfl
@[simp] theorem setTimer_pin (i : Slot) (x : Option Timer) (q : PinId) : (s.setTimer i x).pin q = s.pin q := rfl
@[simp] theorem setTimer_input (i : Slot) (x : Option Timer) (j : CapId) : (s.setTimer i x).input j = s.input j := rfl
@[simp] theorem setTimer_port (i : Slot) (x : Option Timer) (g : HostId) : (s.setTimer i x).port g = s.port g := rfl
@[simp] theorem setTimer_attached (i : Slot) (x : Option Timer) (g : HostId) : (s.setTimer i x).attached g = s.attached g := rfl
@[simp] theorem setTimer_running (i : Slot) (x : Option Timer) : (s.setTimer i x).running = s.running := rfl

@[simp] theorem setBox_count (h : HostId) (x : NoticeBox) : (s.setBox h x).count = s.count := rfl
@[simp] theorem setBox_sup (h : HostId) (x : NoticeBox) : (s.setBox h x).sup = s.sup := rfl
@[simp] theorem setBox_pool (h : HostId) (x : NoticeBox) : (s.setBox h x).pool = s.pool := rfl
@[simp] theorem setBox_auth (h : HostId) (x : NoticeBox) : (s.setBox h x).auth = s.auth := rfl
@[simp] theorem setBox_pins (h : HostId) (x : NoticeBox) : (s.setBox h x).pins = s.pins := rfl
@[simp] theorem setBox_cap (h : HostId) (x : NoticeBox) : (s.setBox h x).cap = s.cap := rfl
@[simp] theorem setBox_ports (h : HostId) (x : NoticeBox) : (s.setBox h x).ports = s.ports := rfl
@[simp] theorem setBox_retained (h : HostId) (x : NoticeBox) : (s.setBox h x).retained = s.retained := rfl
@[simp] theorem setBox_power (h : HostId) (x : NoticeBox) : (s.setBox h x).power = s.power := rfl
@[simp] theorem setBox_pending (h : HostId) (x : NoticeBox) : (s.setBox h x).pending = s.pending := rfl
@[simp] theorem setBox_timer (h : HostId) (x : NoticeBox) (j : Slot) : (s.setBox h x).timer j = s.timer j := rfl
@[simp] theorem setBox_pin (h : HostId) (x : NoticeBox) (q : PinId) : (s.setBox h x).pin q = s.pin q := rfl
@[simp] theorem setBox_input (h : HostId) (x : NoticeBox) (j : CapId) : (s.setBox h x).input j = s.input j := rfl
@[simp] theorem setBox_port (h : HostId) (x : NoticeBox) (g : HostId) : (s.setBox h x).port g = s.port g := rfl
@[simp] theorem setBox_attached (h : HostId) (x : NoticeBox) (g : HostId) : (s.setBox h x).attached g = s.attached g := rfl
@[simp] theorem setBox_running (h : HostId) (x : NoticeBox) : (s.setBox h x).running = s.running := rfl

@[simp] theorem setPin_count (p : PinId) (x : Option PinRecord) : (s.setPin p x).count = s.count := rfl
@[simp] theorem setPin_sup (p : PinId) (x : Option PinRecord) : (s.setPin p x).sup = s.sup := rfl
@[simp] theorem setPin_pool (p : PinId) (x : Option PinRecord) : (s.setPin p x).pool = s.pool := rfl
@[simp] theorem setPin_notices (p : PinId) (x : Option PinRecord) : (s.setPin p x).notices = s.notices := rfl
@[simp] theorem setPin_auth (p : PinId) (x : Option PinRecord) : (s.setPin p x).auth = s.auth := rfl
@[simp] theorem setPin_cap (p : PinId) (x : Option PinRecord) : (s.setPin p x).cap = s.cap := rfl
@[simp] theorem setPin_ports (p : PinId) (x : Option PinRecord) : (s.setPin p x).ports = s.ports := rfl
@[simp] theorem setPin_retained (p : PinId) (x : Option PinRecord) : (s.setPin p x).retained = s.retained := rfl
@[simp] theorem setPin_power (p : PinId) (x : Option PinRecord) : (s.setPin p x).power = s.power := rfl
@[simp] theorem setPin_pending (p : PinId) (x : Option PinRecord) : (s.setPin p x).pending = s.pending := rfl
@[simp] theorem setPin_timer (p : PinId) (x : Option PinRecord) (j : Slot) : (s.setPin p x).timer j = s.timer j := rfl
@[simp] theorem setPin_box (p : PinId) (x : Option PinRecord) (g : HostId) : (s.setPin p x).box g = s.box g := rfl
@[simp] theorem setPin_input (p : PinId) (x : Option PinRecord) (j : CapId) : (s.setPin p x).input j = s.input j := rfl
@[simp] theorem setPin_port (p : PinId) (x : Option PinRecord) (g : HostId) : (s.setPin p x).port g = s.port g := rfl
@[simp] theorem setPin_attached (p : PinId) (x : Option PinRecord) (g : HostId) : (s.setPin p x).attached g = s.attached g := rfl
@[simp] theorem setPin_running (p : PinId) (x : Option PinRecord) : (s.setPin p x).running = s.running := rfl

@[simp] theorem setInput_count (i : CapId) (x : CapInput) : (s.setInput i x).count = s.count := rfl
@[simp] theorem setInput_sup (i : CapId) (x : CapInput) : (s.setInput i x).sup = s.sup := rfl
@[simp] theorem setInput_pool (i : CapId) (x : CapInput) : (s.setInput i x).pool = s.pool := rfl
@[simp] theorem setInput_notices (i : CapId) (x : CapInput) : (s.setInput i x).notices = s.notices := rfl
@[simp] theorem setInput_auth (i : CapId) (x : CapInput) : (s.setInput i x).auth = s.auth := rfl
@[simp] theorem setInput_pins (i : CapId) (x : CapInput) : (s.setInput i x).pins = s.pins := rfl
@[simp] theorem setInput_ports (i : CapId) (x : CapInput) : (s.setInput i x).ports = s.ports := rfl
@[simp] theorem setInput_retained (i : CapId) (x : CapInput) : (s.setInput i x).retained = s.retained := rfl
@[simp] theorem setInput_power (i : CapId) (x : CapInput) : (s.setInput i x).power = s.power := rfl
@[simp] theorem setInput_pending (i : CapId) (x : CapInput) : (s.setInput i x).pending = s.pending := rfl
@[simp] theorem setInput_timer (i : CapId) (x : CapInput) (j : Slot) : (s.setInput i x).timer j = s.timer j := rfl
@[simp] theorem setInput_box (i : CapId) (x : CapInput) (g : HostId) : (s.setInput i x).box g = s.box g := rfl
@[simp] theorem setInput_pin (i : CapId) (x : CapInput) (q : PinId) : (s.setInput i x).pin q = s.pin q := rfl
@[simp] theorem setInput_port (i : CapId) (x : CapInput) (g : HostId) : (s.setInput i x).port g = s.port g := rfl
@[simp] theorem setInput_attached (i : CapId) (x : CapInput) (g : HostId) : (s.setInput i x).attached g = s.attached g := rfl
@[simp] theorem setInput_running (i : CapId) (x : CapInput) : (s.setInput i x).running = s.running := rfl

@[simp] theorem setPort_count (h : HostId) (x : Port) : (s.setPort h x).count = s.count := rfl
@[simp] theorem setPort_sup (h : HostId) (x : Port) : (s.setPort h x).sup = s.sup := rfl
@[simp] theorem setPort_pool (h : HostId) (x : Port) : (s.setPort h x).pool = s.pool := rfl
@[simp] theorem setPort_notices (h : HostId) (x : Port) : (s.setPort h x).notices = s.notices := rfl
@[simp] theorem setPort_auth (h : HostId) (x : Port) : (s.setPort h x).auth = s.auth := rfl
@[simp] theorem setPort_pins (h : HostId) (x : Port) : (s.setPort h x).pins = s.pins := rfl
@[simp] theorem setPort_cap (h : HostId) (x : Port) : (s.setPort h x).cap = s.cap := rfl
@[simp] theorem setPort_retained (h : HostId) (x : Port) : (s.setPort h x).retained = s.retained := rfl
@[simp] theorem setPort_power (h : HostId) (x : Port) : (s.setPort h x).power = s.power := rfl
@[simp] theorem setPort_pending (h : HostId) (x : Port) : (s.setPort h x).pending = s.pending := rfl
@[simp] theorem setPort_timer (h : HostId) (x : Port) (j : Slot) : (s.setPort h x).timer j = s.timer j := rfl
@[simp] theorem setPort_box (h : HostId) (x : Port) (g : HostId) : (s.setPort h x).box g = s.box g := rfl
@[simp] theorem setPort_pin (h : HostId) (x : Port) (q : PinId) : (s.setPort h x).pin q = s.pin q := rfl
@[simp] theorem setPort_input (h : HostId) (x : Port) (j : CapId) : (s.setPort h x).input j = s.input j := rfl
@[simp] theorem setPort_running (h : HostId) (x : Port) : (s.setPort h x).running = s.running := rfl

theorem setTimer_timer (i j : Slot) (x : Option Timer) :
    (s.setTimer i x).timer j = if j = i then x else s.timer j := by
  simp only [setTimer, timer, Vector.get_eq_getElem, Vector.getElem_set]
  by_cases e : j = i
  · simp [e]
  · have : i.val ≠ j.val := fun c => e (Fin.ext c.symm)
    simp [e, this]

@[simp] theorem setTimer_timer_self (i : Slot) (x : Option Timer) : (s.setTimer i x).timer i = x := by
  simp [setTimer_timer]

theorem setBox_box (h g : HostId) (x : NoticeBox) : (s.setBox h x).box g = if g = h then x else s.box g :=
  PerHost.get_set _ _ _ _

@[simp] theorem setBox_box_self (h : HostId) (x : NoticeBox) : (s.setBox h x).box h = x := by
  simp [setBox_box]

theorem setPin_pin (p q : PinId) (x : Option PinRecord) : (s.setPin p x).pin q = if q = p then x else s.pin q :=
  Quad.get_set _ _ _ _

@[simp] theorem setPin_pin_self (p : PinId) (x : Option PinRecord) : (s.setPin p x).pin p = x := by
  simp [setPin_pin]

theorem setInput_input (i j : CapId) (x : CapInput) :
    (s.setInput i x).input j = if j = i then x else s.input j :=
  Quad.get_set _ _ _ _

@[simp] theorem setInput_input_self (i : CapId) (x : CapInput) : (s.setInput i x).input i = x := by
  simp [setInput_input]

@[simp] theorem setInput_log (i : CapId) (x : CapInput) : (s.setInput i x).cap.log = s.cap.log := rfl
@[simp] theorem setInput_serial (i : CapId) (x : CapInput) : (s.setInput i x).cap.serial = s.cap.serial := rfl
@[simp] theorem setInput_seen (i : CapId) (x : CapInput) : (s.setInput i x).cap.seen = s.cap.seen := rfl
@[simp] theorem setTimer_nextSeq (i : Slot) (x : Option Timer) : (s.setTimer i x).pool.nextSeq = s.pool.nextSeq := rfl

theorem setPort_port (h g : HostId) (x : Port) : (s.setPort h x).port g = if g = h then x else s.port g :=
  PerHost.get_set _ _ _ _

@[simp] theorem setPort_port_self (h : HostId) (x : Port) : (s.setPort h x).port h = x := by
  simp [setPort_port]

theorem setPort_attached (h g : HostId) (x : Port) :
    (s.setPort h x).attached g = if g = h then x.attached else s.attached g := by
  simp only [attached, setPort_port]
  split <;> rfl

end Machine.State

namespace Machine

@[simp] theorem mapTimers_get (f : Option Timer → Option Timer) (p : Pool) (i : Slot) :
    (mapTimers f p).timers.get i = f (p.timers.get i) := by
  simp [mapTimers, Vector.get_eq_getElem]

@[simp] theorem mapTimers_nextSeq (f : Option Timer → Option Timer) (p : Pool) :
    (mapTimers f p).nextSeq = p.nextSeq := rfl

end Machine

end Sys2Proof
end

