-- ==== Sys2Proof/Laws/Notices.lean ====
section
/-! SUPPORT. Laws/Notices.lean: what posting a notice changes and what it leaves (R88 to R92). -/

namespace Sys2Proof.Machine

section Post

variable (h : HostId) (n : Notice) (s : State)

@[simp] theorem post_count : (post h n s).count = s.count := by unfold post; split <;> rfl
@[simp] theorem post_sup : (post h n s).sup = s.sup := by unfold post; split <;> rfl
@[simp] theorem post_pool : (post h n s).pool = s.pool := by unfold post; split <;> rfl
@[simp] theorem post_auth : (post h n s).auth = s.auth := by unfold post; split <;> rfl
@[simp] theorem post_pins : (post h n s).pins = s.pins := by unfold post; split <;> rfl
@[simp] theorem post_cap : (post h n s).cap = s.cap := by unfold post; split <;> rfl
@[simp] theorem post_ports : (post h n s).ports = s.ports := by unfold post; split <;> rfl
@[simp] theorem post_retained : (post h n s).retained = s.retained := by unfold post; split <;> rfl
@[simp] theorem post_power : (post h n s).power = s.power := by unfold post; split <;> rfl
@[simp] theorem post_pending : (post h n s).pending = s.pending := by unfold post; split <;> rfl
@[simp] theorem post_timer (i : Slot) : (post h n s).timer i = s.timer i := by simp [State.timer]
@[simp] theorem post_pin (p : PinId) : (post h n s).pin p = s.pin p := by simp [State.pin]
@[simp] theorem post_input (i : CapId) : (post h n s).input i = s.input i := by simp [State.input]
@[simp] theorem post_port (g : HostId) : (post h n s).port g = s.port g := by simp [State.port]
@[simp] theorem post_attached (g : HostId) : (post h n s).attached g = s.attached g := by simp [State.attached]
@[simp] theorem post_running : (post h n s).running = s.running := by simp [State.running]

/-- The boxes after a post (R89). -/
theorem post_box (g : HostId) :
    (post h n s).box g = if g = h ∧ s.attached h = true then (s.box h).post n else s.box g := by
  unfold post
  by_cases e : g = h <;> by_cases a : s.attached h = true <;> simp [e, a, State.setBox_box]

/-- A post to one host. -/
theorem post_postedTo : PostedTo h n s (post h n s) := by
  intro g
  rw [post_box]
  by_cases e : g = h <;> simp [e]

end Post

section PostAll

variable (n : Notice) (s : State)

@[simp] theorem postAll_count : (postAll n s).count = s.count := by simp [postAll]
@[simp] theorem postAll_sup : (postAll n s).sup = s.sup := by simp [postAll]
@[simp] theorem postAll_pool : (postAll n s).pool = s.pool := by simp [postAll]
@[simp] theorem postAll_auth : (postAll n s).auth = s.auth := by simp [postAll]
@[simp] theorem postAll_pins : (postAll n s).pins = s.pins := by simp [postAll]
@[simp] theorem postAll_cap : (postAll n s).cap = s.cap := by simp [postAll]
@[simp] theorem postAll_ports : (postAll n s).ports = s.ports := by simp [postAll]
@[simp] theorem postAll_retained : (postAll n s).retained = s.retained := by simp [postAll]
@[simp] theorem postAll_power : (postAll n s).power = s.power := by simp [postAll]
@[simp] theorem postAll_pending : (postAll n s).pending = s.pending := by simp [postAll]
@[simp] theorem postAll_timer (i : Slot) : (postAll n s).timer i = s.timer i := by simp [postAll]
@[simp] theorem postAll_pin (p : PinId) : (postAll n s).pin p = s.pin p := by simp [postAll]
@[simp] theorem postAll_input (i : CapId) : (postAll n s).input i = s.input i := by simp [postAll]
@[simp] theorem postAll_port (g : HostId) : (postAll n s).port g = s.port g := by simp [postAll]
@[simp] theorem postAll_attached (g : HostId) : (postAll n s).attached g = s.attached g := by simp [postAll]
@[simp] theorem postAll_running : (postAll n s).running = s.running := by simp [postAll]

/-- The boxes after a post to every attached host (R86). -/
theorem postAll_box (g : HostId) :
    (postAll n s).box g = if s.attached g = true then (s.box g).post n else s.box g := by
  cases g <;> simp [postAll, post_box]

/-- A post to all. -/
theorem postAll_postedAll : PostedAll n s (postAll n s) := fun g => postAll_box n s g

end PostAll

/-! ### One queue -/

/-- A notice placed in a queue: the notice and what was queued (R91). -/
theorem mem_insertNotice {n x : Notice} {q : List Notice} : x ∈ insertNotice n q ↔ x = n ∨ x ∈ q := by
  have e : x ∈ q ↔ x ∈ q.takeWhile (fun y => n.cls ≤ y.cls) ∨ x ∈ q.dropWhile (fun y => n.cls ≤ y.cls) := by
    rw [← List.mem_append, List.takeWhile_append_dropWhile]
  rw [e]
  simp only [insertNotice, List.mem_append, List.mem_cons]
  tauto

@[simp] theorem length_insertNotice (n : Notice) (q : List Notice) :
    (insertNotice n q).length = q.length + 1 := by
  have e := congrArg List.length (List.takeWhile_append_dropWhile (p := fun y : Notice => decide (n.cls ≤ y.cls))
    (l := q))
  rw [List.length_append] at e
  simp only [insertNotice, List.length_append, List.length_cons]
  omega

/-- A queue in class order stays in class order (R88, R91). -/
theorem insertNotice_ordered {n : Notice} {q : List Notice}
    (h : q.Pairwise fun x y => y.cls ≤ x.cls) : (insertNotice n q).Pairwise fun x y => y.cls ≤ x.cls := by
  induction q with
  | nil => simp [insertNotice]
  | cons x q ih =>
    obtain ⟨hx, hq⟩ := List.pairwise_cons.1 h
    by_cases c : n.cls ≤ x.cls
    · have e : insertNotice n (x :: q) = x :: insertNotice n q := by simp [insertNotice, c]
      rw [e]
      refine List.pairwise_cons.2 ⟨fun y hy => ?_, ih hq⟩
      rcases mem_insertNotice.1 hy with rfl | hy
      · exact c
      · exact hx y hy
    · have e : insertNotice n (x :: q) = n :: x :: q := by simp [insertNotice, c]
      rw [e]
      refine List.pairwise_cons.2 ⟨fun y hy => ?_, h⟩
      rcases List.mem_cons.1 hy with rfl | hy
      · omega
      · have := hx y hy
        omega

@[simp] theorem mergeNotice_cls (x y : Notice) : (mergeNotice x y).cls = x.cls := rfl
@[simp] theorem mergeNotice_kind (x y : Notice) : (mergeNotice x y).kind = x.kind := rfl
@[simp] theorem mergeNotice_origin (x y : Notice) : (mergeNotice x y).origin = x.origin := rfl
@[simp] theorem post_inHand (n : Notice) (x : NoticeBox) : (x.post n).inHand = x.inHand := by
  unfold NoticeBox.post; split <;> [rfl; (split <;> rfl)]
@[simp] theorem post_threshold (n : Notice) (x : NoticeBox) : (x.post n).threshold = x.threshold := by
  unfold NoticeBox.post; split <;> [rfl; (split <;> rfl)]

end Sys2Proof.Machine
end

