-- ==== Sys2Proof/Laws/Timers.lean ====
section
/-! SUPPORT. Laws/Timers.lean: what the operations on pins, deadlines and expiries change and leave (R49, R61 to R71,
R76, R127 to R129). -/

namespace Sys2Proof.Machine

/-! ### Pins -/

section ApplyAction

variable (p : PinId) (a : PinAction) (o : ActionOrigin) (s : State)

@[simp] theorem applyAction_count : (applyAction p a o s).count = s.count := by unfold applyAction; split <;> rfl
@[simp] theorem applyAction_sup : (applyAction p a o s).sup = s.sup := by unfold applyAction; split <;> rfl
@[simp] theorem applyAction_pool : (applyAction p a o s).pool = s.pool := by unfold applyAction; split <;> rfl
@[simp] theorem applyAction_notices : (applyAction p a o s).notices = s.notices := by
  unfold applyAction; split <;> rfl
@[simp] theorem applyAction_auth : (applyAction p a o s).auth = s.auth := by unfold applyAction; split <;> rfl
@[simp] theorem applyAction_cap : (applyAction p a o s).cap = s.cap := by unfold applyAction; split <;> rfl
@[simp] theorem applyAction_ports : (applyAction p a o s).ports = s.ports := by unfold applyAction; split <;> rfl
@[simp] theorem applyAction_retained : (applyAction p a o s).retained = s.retained := by
  unfold applyAction; split <;> rfl
@[simp] theorem applyAction_power : (applyAction p a o s).power = s.power := by unfold applyAction; split <;> rfl
@[simp] theorem applyAction_pending : (applyAction p a o s).pending = s.pending := by
  unfold applyAction; split <;> rfl

/-- The pins after an action (R127, R128). -/
theorem applyAction_pin (q : PinId) :
    (applyAction p a o s).pin q = if q = p then (s.pin p).map (·.apply a o s.count.time) else s.pin q := by
  unfold applyAction
  cases e : s.pin p with
  | none =>
    by_cases c : q = p
    · subst c
      simp [e]
    · simp [c]
  | some r => simp [State.setPin_pin]

end ApplyAction

section MovePulseEnds

variable (f : Int → Int) (s : State)

@[simp] theorem movePulseEnds_count : (movePulseEnds f s).count = s.count := rfl
@[simp] theorem movePulseEnds_sup : (movePulseEnds f s).sup = s.sup := rfl
@[simp] theorem movePulseEnds_pool : (movePulseEnds f s).pool = s.pool := rfl
@[simp] theorem movePulseEnds_notices : (movePulseEnds f s).notices = s.notices := rfl
@[simp] theorem movePulseEnds_auth : (movePulseEnds f s).auth = s.auth := rfl
@[simp] theorem movePulseEnds_cap : (movePulseEnds f s).cap = s.cap := rfl
@[simp] theorem movePulseEnds_ports : (movePulseEnds f s).ports = s.ports := rfl
@[simp] theorem movePulseEnds_retained : (movePulseEnds f s).retained = s.retained := rfl
@[simp] theorem movePulseEnds_power : (movePulseEnds f s).power = s.power := rfl
@[simp] theorem movePulseEnds_pending : (movePulseEnds f s).pending = s.pending := rfl

/-- The pins after every running pulse end is moved (R129). -/
theorem movePulseEnds_pin (p : PinId) :
    (movePulseEnds f s).pin p = (s.pin p).map fun r => { r with pulseEnd := r.pulseEnd.map f } := by
  simp [movePulseEnds, State.pin]

end MovePulseEnds

/-! ### Deadlines -/

section MoveElapsed

variable (f : Int → Int) (s : State)

@[simp] theorem moveElapsed_count : (moveElapsed f s).count = s.count := rfl
@[simp] theorem moveElapsed_sup : (moveElapsed f s).sup = s.sup := rfl
@[simp] theorem moveElapsed_notices : (moveElapsed f s).notices = s.notices := rfl
@[simp] theorem moveElapsed_auth : (moveElapsed f s).auth = s.auth := rfl
@[simp] theorem moveElapsed_pins : (moveElapsed f s).pins = s.pins := rfl
@[simp] theorem moveElapsed_cap : (moveElapsed f s).cap = s.cap := rfl
@[simp] theorem moveElapsed_ports : (moveElapsed f s).ports = s.ports := rfl
@[simp] theorem moveElapsed_retained : (moveElapsed f s).retained = s.retained := rfl
@[simp] theorem moveElapsed_power : (moveElapsed f s).power = s.power := rfl
@[simp] theorem moveElapsed_pending : (moveElapsed f s).pending = s.pending := rfl
@[simp] theorem moveElapsed_nextSeq : (moveElapsed f s).pool.nextSeq = s.pool.nextSeq := rfl

/-- The records after the ELAPSED deadlines are moved (R49, R77). -/
theorem moveElapsed_timer (i : Slot) :
    (moveElapsed f s).timer i = (s.timer i).map fun t =>
      if t.basis = .elapsed then { t with armed := t.armed.map fun x => { x with deadline := f x.deadline } }
      else t := by
  simp [moveElapsed, State.timer]

end MoveElapsed

/-- A point at or above 0 s 0 ns is shown as it stands. -/
@[simp] theorem timeValue_natCast (t : Nat) : timeValue (t : Int) = t := by simp [timeValue]

theorem timeValue_of_nonneg {t : Int} (h : 0 ≤ t) : timeValue t = t.toNat := by simp [timeValue, h]

/-- A set or step that moves a point with the count leaves what remains to it as it stands (R49, R126, R129). -/
theorem remaining_moved (t : Int) {now after : Nat} {d : Int} (h : (after : Int) = now + d) :
    remaining (t + d) after = remaining t now := by
  simp only [remaining, h]
  congr 1
  ring

/-- The records after all of `h` are freed (R59). -/
theorem freeAll_timer (h : HostId) (s : State) (i : Slot) :
    (freeAll h s).timer i = if (s.timer i).any fun t => t.owner = h then none else s.timer i := by
  simp only [freeAll, State.timer, mapTimers_get]
  congr

/-- A deadline caught up is later than `now`, by at most a period when it was moved (R51, R71). -/
theorem catchUp_spec {deadline next : Int} {period now k : Nat} (hp : 1 ≤ period)
    (h : catchUp deadline period now = (next, k)) :
    next = deadline + k * period ∧ now < next ∧ (k = 0 ↔ now < deadline) ∧ (k ≠ 0 → next ≤ now + period) := by
  unfold catchUp at h
  split at h
  · next hle =>
    obtain ⟨rfl, rfl⟩ := Prod.mk.inj h
    obtain ⟨n, hn⟩ : ∃ n : Nat, ((now : Int) - deadline) = n := ⟨((now : Int) - deadline).toNat, by omega⟩
    have hdiv := Nat.div_add_mod n period
    have hlt : n % period < period := Nat.mod_lt _ hp
    have hmul : (((n / period + 1 : Nat) : Int) * (period : Int)) = ((period * (n / period) : Nat) : Int) + period := by
      push_cast; ring
    simp only [hn, Int.toNat_natCast]
    rw [hmul]
    generalize period * (n / period) = m at hdiv ⊢
    generalize n % period = r at hdiv hlt
    exact ⟨trivial, by omega, ⟨fun c => absurd c (Nat.succ_ne_zero _), fun c => absurd hle (by omega)⟩, fun _ => by omega⟩
  · obtain ⟨rfl, rfl⟩ := Prod.mk.inj h
    refine ⟨by simp, by omega, by omega, fun c => absurd rfl c⟩

/-! ### One expiry -/

section Expire

variable (i : Slot) (late : Bool) (now : Nat) (s : State)

@[simp] theorem expire_count : (expire i late now s).count = s.count := by
  unfold expire; split <;> [rfl; (split <;> [rfl; (simp only [State.setTimer_count]; split <;> split <;> simp)])]
@[simp] theorem expire_sup : (expire i late now s).sup = s.sup := by
  unfold expire; split <;> [rfl; (split <;> [rfl; (simp only [State.setTimer_sup]; split <;> split <;> simp)])]
@[simp] theorem expire_auth : (expire i late now s).auth = s.auth := by
  unfold expire; split <;> [rfl; (split <;> [rfl; (simp only [State.setTimer_auth]; split <;> split <;> simp)])]
@[simp] theorem expire_cap : (expire i late now s).cap = s.cap := by
  unfold expire; split <;> [rfl; (split <;> [rfl; (simp only [State.setTimer_cap]; split <;> split <;> simp)])]
@[simp] theorem expire_ports : (expire i late now s).ports = s.ports := by
  unfold expire; split <;> [rfl; (split <;> [rfl; (simp only [State.setTimer_ports]; split <;> split <;> simp)])]
@[simp] theorem expire_retained : (expire i late now s).retained = s.retained := by
  unfold expire; split <;> [rfl; (split <;> [rfl; (simp only [State.setTimer_retained]; split <;> split <;> simp)])]
@[simp] theorem expire_power : (expire i late now s).power = s.power := by
  unfold expire; split <;> [rfl; (split <;> [rfl; (simp only [State.setTimer_power]; split <;> split <;> simp)])]
@[simp] theorem expire_pending : (expire i late now s).pending = s.pending := by
  unfold expire; split <;> [rfl; (split <;> [rfl; (simp only [State.setTimer_pending]; split <;> split <;> simp)])]

/-- The record settled by one expiry, and the other records (R67, R70, R71). -/
theorem expire_timer {t : Timer} {x : Arming} (ht : s.timer i = some t) (hx : t.armed = some x) (j : Slot) :
    (expire i late now s).timer j =
      if j = i then some (Timer.settle { t with fire := min 65535 (t.fire + 1) } x now) else s.timer j := by
  have same : ∀ u : State, u.pool = s.pool → ∀ k, u.timer k = s.timer k := fun u e k => by simp [State.timer, e]
  unfold expire
  simp only [ht, hx, State.setTimer_timer]
  by_cases c : j = i
  · simp only [c, if_true]; rfl
  · simp only [c, if_false]
    apply same
    split <;> split <;> simp

end Expire

/-! ### Expiries in queue order -/

section ExpireReached

variable (late : Bool) (now : Nat)

/-- What no expiry changes. -/
theorem expireReached_frame (n : Nat) (s : State) :
    (expireReached n late now s).count = s.count ∧ (expireReached n late now s).sup = s.sup ∧
    (expireReached n late now s).auth = s.auth ∧ (expireReached n late now s).cap = s.cap ∧
    (expireReached n late now s).ports = s.ports ∧ (expireReached n late now s).retained = s.retained ∧
    (expireReached n late now s).power = s.power ∧ (expireReached n late now s).pending = s.pending := by
  induction n generalizing s with
  | zero => exact ⟨rfl, rfl, rfl, rfl, rfl, rfl, rfl, rfl⟩
  | succ n ih =>
    unfold expireReached
    split
    · split
      · obtain ⟨h1, h2, h3, h4, h5, h6, h7, h8⟩ := ih (expire _ late now s)
        exact ⟨by rw [h1, expire_count], by rw [h2, expire_sup], by rw [h3, expire_auth], by rw [h4, expire_cap],
          by rw [h5, expire_ports], by rw [h6, expire_retained], by rw [h7, expire_power],
          by rw [h8, expire_pending]⟩
      · exact ⟨rfl, rfl, rfl, rfl, rfl, rfl, rfl, rfl⟩
    · exact ⟨rfl, rfl, rfl, rfl, rfl, rfl, rfl, rfl⟩

end ExpireReached

end Sys2Proof.Machine
end

