-- ==== Sys2Proof/Laws/Count.lean ====
section
/-! SUPPORT. Laws/Count.lean: what a hand-off, an advance and the sampling after it change and leave (R2 to R5, R19,
R107, R135). -/

namespace Sys2Proof.Machine

section HandOff

variable (s : State)

@[simp] theorem handOff_count : (handOff s).count = s.count := rfl
@[simp] theorem handOff_sup : (handOff s).sup = s.sup := rfl
@[simp] theorem handOff_pool : (handOff s).pool = s.pool := rfl
@[simp] theorem handOff_notices : (handOff s).notices = s.notices := rfl
@[simp] theorem handOff_auth : (handOff s).auth = s.auth := rfl
@[simp] theorem handOff_pins : (handOff s).pins = s.pins := rfl
@[simp] theorem handOff_cap : (handOff s).cap = s.cap := rfl
@[simp] theorem handOff_ports : (handOff s).ports = s.ports := rfl
@[simp] theorem handOff_power : (handOff s).power = s.power := rfl
@[simp] theorem handOff_pending : (handOff s).pending = s.pending := rfl
@[simp] theorem handOff_retained :
    (handOff s).retained = s.retained.map fun r => { r with time := s.count.time, residue := s.count.residue } := rfl

end HandOff

section MoveCount

variable (amount : Nat) (s : State)

@[simp] theorem reachCount_sup : (reachCount amount s).sup = s.sup := by
  unfold reachCount; dsimp only; split <;> rfl
@[simp] theorem reachCount_notices : (reachCount amount s).notices = s.notices := by
  unfold reachCount; dsimp only; split <;> rfl
@[simp] theorem reachCount_auth : (reachCount amount s).auth = s.auth := by
  unfold reachCount; dsimp only; split <;> rfl
@[simp] theorem reachCount_cap : (reachCount amount s).cap = s.cap := by
  unfold reachCount; dsimp only; split <;> rfl
@[simp] theorem reachCount_ports : (reachCount amount s).ports = s.ports := by
  unfold reachCount; dsimp only; split <;> rfl
@[simp] theorem reachCount_power : (reachCount amount s).power = s.power := by
  unfold reachCount; dsimp only; split <;> rfl
@[simp] theorem reachCount_pending : (reachCount amount s).pending = s.pending := by
  unfold reachCount; dsimp only; split <;> rfl
@[simp] theorem holdCount_sup : (holdCount amount s).sup = s.sup := rfl
@[simp] theorem holdCount_notices : (holdCount amount s).notices = s.notices := rfl
@[simp] theorem holdCount_auth : (holdCount amount s).auth = s.auth := rfl
@[simp] theorem holdCount_cap : (holdCount amount s).cap = s.cap := rfl
@[simp] theorem holdCount_ports : (holdCount amount s).ports = s.ports := rfl
@[simp] theorem holdCount_power : (holdCount amount s).power = s.power := rfl
@[simp] theorem holdCount_pending : (holdCount amount s).pending = s.pending := rfl
@[simp] theorem holdCount_retained : (holdCount amount s).retained = s.retained := rfl

/-- An advance that leaves the count in range (R3). -/
theorem moveCount_of_lt (h : fineCount s + amount < countLimit) :
    moveCount amount s = reachCount (fineCount s + amount) s := if_pos h

/-- An advance that holds the count at its greatest value (R4). -/
theorem moveCount_of_le (h : countLimit ≤ fineCount s + amount) :
    moveCount amount s = holdCount (fineCount s + amount) s := if_neg (Nat.not_lt.2 h)

@[simp] theorem moveCount_sup : (moveCount amount s).sup = s.sup := by
  rcases Nat.lt_or_ge (fineCount s + amount) countLimit with h | h
  · rw [moveCount_of_lt _ _ h, reachCount_sup]
  · rw [moveCount_of_le _ _ h, holdCount_sup]
@[simp] theorem moveCount_notices : (moveCount amount s).notices = s.notices := by
  rcases Nat.lt_or_ge (fineCount s + amount) countLimit with h | h
  · rw [moveCount_of_lt _ _ h, reachCount_notices]
  · rw [moveCount_of_le _ _ h, holdCount_notices]
@[simp] theorem moveCount_auth : (moveCount amount s).auth = s.auth := by
  rcases Nat.lt_or_ge (fineCount s + amount) countLimit with h | h
  · rw [moveCount_of_lt _ _ h, reachCount_auth]
  · rw [moveCount_of_le _ _ h, holdCount_auth]
@[simp] theorem moveCount_cap : (moveCount amount s).cap = s.cap := by
  rcases Nat.lt_or_ge (fineCount s + amount) countLimit with h | h
  · rw [moveCount_of_lt _ _ h, reachCount_cap]
  · rw [moveCount_of_le _ _ h, holdCount_cap]
@[simp] theorem moveCount_ports : (moveCount amount s).ports = s.ports := by
  rcases Nat.lt_or_ge (fineCount s + amount) countLimit with h | h
  · rw [moveCount_of_lt _ _ h, reachCount_ports]
  · rw [moveCount_of_le _ _ h, holdCount_ports]
@[simp] theorem moveCount_power : (moveCount amount s).power = s.power := by
  rcases Nat.lt_or_ge (fineCount s + amount) countLimit with h | h
  · rw [moveCount_of_lt _ _ h, reachCount_power]
  · rw [moveCount_of_le _ _ h, holdCount_power]
@[simp] theorem moveCount_pending : (moveCount amount s).pending = s.pending := by
  rcases Nat.lt_or_ge (fineCount s + amount) countLimit with h | h
  · rw [moveCount_of_lt _ _ h, reachCount_pending]
  · rw [moveCount_of_le _ _ h, holdCount_pending]

end MoveCount

/-! ### The lease and the sampling -/

section Sampling

variable (amount : Nat) (levels : Quad Level) (s : State)

@[simp] theorem runLease_count : (runLease amount s).count = s.count := rfl
@[simp] theorem runLease_sup : (runLease amount s).sup = s.sup := rfl
@[simp] theorem runLease_pool : (runLease amount s).pool = s.pool := rfl
@[simp] theorem runLease_notices : (runLease amount s).notices = s.notices := rfl
theorem runLease_auth :
    (runLease amount s).auth =
      { s.auth with holding := s.auth.holding.map fun x => { x with elapsed := x.elapsed + amount } } := rfl
@[simp] theorem runLease_pins : (runLease amount s).pins = s.pins := rfl
@[simp] theorem runLease_cap : (runLease amount s).cap = s.cap := rfl
@[simp] theorem runLease_ports : (runLease amount s).ports = s.ports := rfl
@[simp] theorem runLease_retained : (runLease amount s).retained = s.retained := rfl
@[simp] theorem runLease_power : (runLease amount s).power = s.power := rfl
@[simp] theorem runLease_pending : (runLease amount s).pending = s.pending := rfl

@[simp] theorem sampleInputs_count : (sampleInputs amount levels s).count = s.count := rfl
@[simp] theorem sampleInputs_sup : (sampleInputs amount levels s).sup = s.sup := rfl
@[simp] theorem sampleInputs_pool : (sampleInputs amount levels s).pool = s.pool := rfl
@[simp] theorem sampleInputs_notices : (sampleInputs amount levels s).notices = s.notices := rfl
@[simp] theorem sampleInputs_auth : (sampleInputs amount levels s).auth = s.auth := rfl
@[simp] theorem sampleInputs_pins : (sampleInputs amount levels s).pins = s.pins := rfl
@[simp] theorem sampleInputs_ports : (sampleInputs amount levels s).ports = s.ports := rfl
@[simp] theorem sampleInputs_retained : (sampleInputs amount levels s).retained = s.retained := rfl
@[simp] theorem sampleInputs_power : (sampleInputs amount levels s).power = s.power := rfl
@[simp] theorem sampleInputs_pending : (sampleInputs amount levels s).pending = s.pending := rfl
@[simp] theorem sampleInputs_log : (sampleInputs amount levels s).cap.log = s.cap.log := rfl
@[simp] theorem sampleInputs_serial : (sampleInputs amount levels s).cap.serial = s.cap.serial := rfl

/-- Every input is sampled once its spacing has risen (R135, R136). -/
theorem sampleInputs_input (i : CapId) :
    (sampleInputs amount levels s).input i = ((s.input i).elapse amount).sample (levels.get i) := by
  match i with
  | 0 => rfl
  | 1 => rfl
  | 2 => rfl
  | 3 => rfl

end Sampling

section TakeAdvance

variable (amount : Nat) (levels : Quad Level) (s : State)

@[simp] theorem takeAdvance_count : (takeAdvance amount levels s).count = (moveCount amount s).count := by
  rw [takeAdvance, sampleInputs_count, runLease_count]
@[simp] theorem takeAdvance_pool : (takeAdvance amount levels s).pool = (moveCount amount s).pool := by
  rw [takeAdvance, sampleInputs_pool, runLease_pool]
@[simp] theorem takeAdvance_pins : (takeAdvance amount levels s).pins = (moveCount amount s).pins := by
  rw [takeAdvance, sampleInputs_pins, runLease_pins]
@[simp] theorem takeAdvance_retained : (takeAdvance amount levels s).retained = (moveCount amount s).retained := by
  rw [takeAdvance, sampleInputs_retained, runLease_retained]
@[simp] theorem takeAdvance_sup : (takeAdvance amount levels s).sup = s.sup := by
  rw [takeAdvance, sampleInputs_sup, runLease_sup, moveCount_sup]
@[simp] theorem takeAdvance_notices : (takeAdvance amount levels s).notices = s.notices := by
  rw [takeAdvance, sampleInputs_notices, runLease_notices, moveCount_notices]
@[simp] theorem takeAdvance_ports : (takeAdvance amount levels s).ports = s.ports := by
  rw [takeAdvance, sampleInputs_ports, runLease_ports, moveCount_ports]
@[simp] theorem takeAdvance_power : (takeAdvance amount levels s).power = s.power := by
  rw [takeAdvance, sampleInputs_power, runLease_power, moveCount_power]
@[simp] theorem takeAdvance_pending : (takeAdvance amount levels s).pending = s.pending := by
  rw [takeAdvance, sampleInputs_pending, runLease_pending, moveCount_pending]
@[simp] theorem takeAdvance_log : (takeAdvance amount levels s).cap.log = s.cap.log := by
  rw [takeAdvance, sampleInputs_log, runLease_cap, moveCount_cap]
@[simp] theorem takeAdvance_serial : (takeAdvance amount levels s).cap.serial = s.cap.serial := by
  rw [takeAdvance, sampleInputs_serial, runLease_cap, moveCount_cap]

/-- The lease runs on elapsed time (R107). -/
theorem takeAdvance_auth :
    (takeAdvance amount levels s).auth =
      { s.auth with holding := s.auth.holding.map fun x => { x with elapsed := x.elapsed + amount } } := by
  rw [takeAdvance, sampleInputs_auth, runLease_auth, moveCount_auth]

/-- Every input is sampled once its spacing has risen (R135, R136). -/
theorem takeAdvance_input (i : CapId) :
    (takeAdvance amount levels s).input i = ((s.input i).elapse amount).sample (levels.get i) := by
  have e : ∀ u : State, u.cap = s.cap → u.input i = s.input i := fun u h => by simp only [State.input, h]
  rw [takeAdvance, sampleInputs_input, e _ (by rw [runLease_cap, moveCount_cap])]

end TakeAdvance

/-- The slew part is never more than the remainder, and never overshoots it (R17). -/
theorem appliedSlew_natAbs (x : Source) (m : Int) : (appliedSlew x m).natAbs = min m.natAbs (slewPart x) := by
  unfold appliedSlew
  split
  · omega
  · split <;> omega

end Sys2Proof.Machine
end

