-- ==== Sys2Proof/Laws/Ports.lean ====
section
/-! SUPPORT. Laws/Ports.lean: what taking a request does, said once: a port that is ready validates it and holds its
answer; the frames that follow. -/

namespace Sys2Proof.Machine

/-! ### Holding an answer -/

section HoldAnswer

variable (h : HostId) (op q : Byte) (x : Reply) (s : State)

@[simp] theorem holdAnswer_count : (holdAnswer h op q x s).count = s.count := rfl
@[simp] theorem holdAnswer_sup : (holdAnswer h op q x s).sup = s.sup := rfl
@[simp] theorem holdAnswer_pool : (holdAnswer h op q x s).pool = s.pool := rfl
@[simp] theorem holdAnswer_notices : (holdAnswer h op q x s).notices = s.notices := rfl
@[simp] theorem holdAnswer_auth : (holdAnswer h op q x s).auth = s.auth := rfl
@[simp] theorem holdAnswer_pins : (holdAnswer h op q x s).pins = s.pins := rfl
@[simp] theorem holdAnswer_cap : (holdAnswer h op q x s).cap = s.cap := rfl
@[simp] theorem holdAnswer_retained : (holdAnswer h op q x s).retained = s.retained := rfl
@[simp] theorem holdAnswer_power : (holdAnswer h op q x s).power = s.power := rfl
@[simp] theorem holdAnswer_pending : (holdAnswer h op q x s).pending = s.pending := rfl
@[simp] theorem holdAnswer_timer (i : Slot) : (holdAnswer h op q x s).timer i = s.timer i := rfl
@[simp] theorem holdAnswer_box (g : HostId) : (holdAnswer h op q x s).box g = s.box g := rfl
@[simp] theorem holdAnswer_pin (p : PinId) : (holdAnswer h op q x s).pin p = s.pin p := rfl
@[simp] theorem holdAnswer_input (i : CapId) : (holdAnswer h op q x s).input i = s.input i := rfl
@[simp] theorem holdAnswer_running : (holdAnswer h op q x s).running = s.running := rfl

/-- The port that holds the answer, and every other port. -/
theorem holdAnswer_port (g : HostId) :
    (holdAnswer h op q x s).port g =
      if g = h then { s.port h with
        phase := .answered ⟨op, q, x.result, x.payload⟩
        record := some ⟨op, q, ⟨op, q, x.result, x.payload⟩⟩ } else s.port g := by
  simp only [holdAnswer, State.setPort_port]

@[simp] theorem holdAnswer_attached (g : HostId) : (holdAnswer h op q x s).attached g = s.attached g := by
  simp only [State.attached, holdAnswer_port]
  split <;> simp_all

end HoldAnswer

/-! ### Taking a request -/

/-- `s` with the request of port `h` in progress: WORKING, no flag on, the status byte and fill bytes gone out. -/
def requestTaken (h : HostId) (q : Byte) (r : Request) (s : State) : State :=
  s.setPort h { s.port h with
    phase := .working (opcodeOf r) q, refused := false, runt := false
    shifted := statusByte s h :: fill (frameLength r) }

section RequestTaken

variable (h : HostId) (q : Byte) (r : Request) (s : State)

@[simp] theorem requestTaken_count : (requestTaken h q r s).count = s.count := rfl
@[simp] theorem requestTaken_sup : (requestTaken h q r s).sup = s.sup := rfl
@[simp] theorem requestTaken_pool : (requestTaken h q r s).pool = s.pool := rfl
@[simp] theorem requestTaken_notices : (requestTaken h q r s).notices = s.notices := rfl
@[simp] theorem requestTaken_auth : (requestTaken h q r s).auth = s.auth := rfl
@[simp] theorem requestTaken_pins : (requestTaken h q r s).pins = s.pins := rfl
@[simp] theorem requestTaken_cap : (requestTaken h q r s).cap = s.cap := rfl
@[simp] theorem requestTaken_retained : (requestTaken h q r s).retained = s.retained := rfl
@[simp] theorem requestTaken_power : (requestTaken h q r s).power = s.power := rfl
@[simp] theorem requestTaken_pending : (requestTaken h q r s).pending = s.pending := rfl
@[simp] theorem requestTaken_timer (i : Slot) : (requestTaken h q r s).timer i = s.timer i := rfl
@[simp] theorem requestTaken_box (g : HostId) : (requestTaken h q r s).box g = s.box g := rfl
@[simp] theorem requestTaken_pin (p : PinId) : (requestTaken h q r s).pin p = s.pin p := rfl
@[simp] theorem requestTaken_input (i : CapId) : (requestTaken h q r s).input i = s.input i := rfl
@[simp] theorem requestTaken_running : (requestTaken h q r s).running = s.running := rfl
@[simp] theorem requestTaken_holder : holder (requestTaken h q r s) = holder s := rfl
@[simp] theorem requestTaken_holdover : holdover (requestTaken h q r s) = holdover s := rfl
@[simp] theorem requestTaken_conditionFlags : conditionFlags (requestTaken h q r s) = conditionFlags s := rfl
@[simp] theorem requestTaken_driver : driver (requestTaken h q r s) = driver s := rfl
@[simp] theorem requestTaken_allocationCount (g : HostId) :
    allocationCount (requestTaken h q r s) g = allocationCount s g := rfl
@[simp] theorem requestTaken_freeCount : freeCount (requestTaken h q r s) = freeCount s := rfl
@[simp] theorem requestTaken_lowestFree : lowestFree (requestTaken h q r s) = lowestFree s := rfl
@[simp] theorem requestTaken_position (g : HostId) : position (requestTaken h q r s) g = position s g := rfl
@[simp] theorem requestTaken_sourceState (x : Source) : (requestTaken h q r s).sourceState x = s.sourceState x := by
  cases x <;> rfl

theorem requestTaken_port (g : HostId) :
    (requestTaken h q r s).port g =
      if g = h then { s.port h with
        phase := .working (opcodeOf r) q, refused := false, runt := false
        shifted := statusByte s h :: fill (frameLength r) } else s.port g := by
  simp only [requestTaken, State.setPort_port]

@[simp] theorem requestTaken_attached (g : HostId) : (requestTaken h q r s).attached g = s.attached g := by
  simp only [State.attached, requestTaken_port]
  split <;> simp_all

end RequestTaken

/-- What becomes of a request after its validation: its answer held, or the port left WORKING (R157). -/
def settleRequest (h : HostId) (op q : Byte) : State × Option Reply → State
  | (t, some x) => holdAnswer h op q x t
  | (t, none) => t

/-- A ready port takes the request, validates it and settles it (R154, R156, R157). -/
theorem requestRow_of_ready {h : HostId} {q : Byte} {r : Request} {levels : Quad Level} {s : State}
    (hr : Ready h (opcodeOf r) q s) :
    requestRow h q r levels s =
      settleRequest h (opcodeOf r) q (validate h levels r (requestTaken h q r s)) := by
  obtain ⟨hrun, hline, hphase, hretry⟩ := hr
  have hopen : portOpen s h = true := by simp [portOpen, hrun, hline]
  have hport : (showStatus h (fill (frameLength r)) s).port h =
      { s.port h with
        refused := false, runt := false, shifted := statusByte s h :: fill (frameLength r) } := by
    simp [showStatus]
  have hret : retryOf ((showStatus h (fill (frameLength r)) s).port h) (opcodeOf r) q = none := by
    rw [hport]; exact hretry
  have htaken : (showStatus h (fill (frameLength r)) s).setPort h
      { (showStatus h (fill (frameLength r)) s).port h with phase := .working (opcodeOf r) q } =
        requestTaken h q r s := by
    rw [hport]
    simp [showStatus, requestTaken, State.setPort]
  have hph : ∀ o p, ((showStatus h (fill (frameLength r)) s).port h).phase ≠ .working o p := by
    rw [hport]; exact hphase
  unfold requestRow takeChecked
  simp only [hopen, if_true, hret, htaken]
  cases hw : ((showStatus h (fill (frameLength r)) s).port h).phase with
  | working o p => exact absurd hw (hph o p)
  | idle => rcases validate h levels r (requestTaken h q r s) with ⟨t, _ | x⟩ <;> rfl
  | answered x => rcases validate h levels r (requestTaken h q r s) with ⟨t, _ | x⟩ <;> rfl

/-- Validation passes a well-formed request of an attached host, the holder where the command asks for it
(R156). -/
theorem validate_of_pass {h : HostId} {r : Request} {levels : Quad Level} {s : State} (hw : r.wellFormed = true)
    (ha : s.attached h = true ∨ openToDetached r = true)
    (hh : authorityOnly r = true → holder s = some h) :
    validate h levels r s = carryOut h levels r s := by
  unfold validate
  rw [hw]
  rcases ha with ha | ha <;> by_cases hx : authorityOnly r = true <;> simp_all

/-- A request that passes validation and is answered in its own event. -/
theorem requestRow_answered {h : HostId} {q : Byte} {r : Request} {levels : Quad Level} {s t : State} {x : Reply}
    (hr : Ready h (opcodeOf r) q s) (hw : r.wellFormed = true)
    (ha : s.attached h = true ∨ openToDetached r = true) (hh : authorityOnly r = true → holder s = some h)
    (hc : carryOut h levels r (requestTaken h q r s) = (t, some x)) :
    requestRow h q r levels s = holdAnswer h (opcodeOf r) q x t := by
  rw [requestRow_of_ready hr, validate_of_pass hw (by simpa using ha) (by simpa using hh), hc]
  rfl

/-! ### Transactions -/

@[simp] theorem kindOf_send : kindOf 0xA5 = .send := by decide
@[simp] theorem kindOf_fetch : kindOf 0x5A = .fetch := by decide

/-- Every other first byte is that of a POLL (R178). -/
theorem kindOf_poll {b : Byte} (hs : b ≠ 0xA5) (hf : b ≠ 0x5A) : kindOf b = .poll := by
  unfold kindOf
  rw [if_neg hs, if_neg hf]

/-- What a transaction leaves that shifts no whole byte out: everything but the bytes last shifted out. -/
theorem showNothing_spec (h : HostId) (s : State) :
    OnlyChanges [.ports] s (showNothing h s) ∧ PortFrame h s (showNothing h s) ∧
      (showNothing h s).port h = { s.port h with shifted := [] } := by
  refine ⟨by simp [OnlyChanges, showNothing], ⟨fun g hg => ?_, ?_, ?_⟩, ?_⟩
  · simp [showNothing, State.setPort_port, hg]
  · simp [showNothing, State.attached]
  · simp [showNothing]
  · simp [showNothing]

/-- A port that takes no transaction ignores every one of them (R149, R164, R173). -/
theorem transaction_ignored {h : HostId} {s : State} (hc : portOpen s h = false) (first : Byte) (more : List Byte)
    (levels : Quad Level) : transaction h first more levels s = showNothing h s := by
  simp [transaction, hc]

/-! ### Frames -/

theorem OnlyChanges.refl (parts : List Part) (s : State) : OnlyChanges parts s s :=
  ⟨fun _ => rfl, fun _ => rfl, fun _ => rfl, fun _ => rfl, fun _ => rfl, fun _ => rfl, fun _ => rfl, fun _ => rfl,
    fun _ => rfl, fun _ => rfl, rfl⟩

/-- The answer that a port holds once a request is settled. -/
theorem answers_holdAnswer {h : HostId} {op q : Byte} {x : Reply} {t : State}
    (hf : (t.port h).refused = false) (hn : (t.port h).runt = false) :
    Answers h op q x.result x.payload (holdAnswer h op q x t) := by
  simp [Answers, holdAnswer_port, hf, hn]

/-- The frame of a request that leaves the ports as they stood when it was taken. -/
theorem requestFrame_holdAnswer {h : HostId} {op q : Byte} {r : Request} {x : Reply} {parts : List Part}
    {s t : State} (ho : OnlyChanges parts (requestTaken h q r s) t)
    (hp : t.ports = (requestTaken h q r s).ports) :
    RequestFrame h parts s (holdAnswer h op q x t) := by
  have hport : ∀ g, t.port g = (requestTaken h q r s).port g := fun g => by simp only [State.port, hp]
  obtain ⟨h1, h2, h3, h4, h5, h6, h7, -, h9, h10, h11⟩ := ho
  refine ⟨⟨?_, ?_, ?_, ?_, ?_, ?_, ?_, ?_, ?_, ?_, ?_⟩, ?_, ?_, ?_⟩
  all_goals first
    | (intro hm; simp only [List.mem_cons, not_or] at hm; simp_all)
    | skip
  · simpa using h11
  · intro g hg
    simp [holdAnswer_port, hg, hport, requestTaken_port]
  · simp [State.attached, holdAnswer_port, hport, requestTaken_port]
  · simp [holdAnswer_port, hport, requestTaken_port]

/-! ### The whole of a request -/

theorem requestTaken_flags (h : HostId) (q : Byte) (r : Request) (s : State) :
    ((requestTaken h q r s).port h).refused = false ∧ ((requestTaken h q r s).port h).runt = false := by
  simp [requestTaken_port]

/-- A request answered in its own event, by a command that leaves the ports to the port block: its next state, its
frame, what else holds of that state, and its answer. -/
theorem request_outcome {h : HostId} {q : Byte} {r : Request} {levels : Quad Level} {s t : State} {res : Result}
    {payload : List Byte} {parts : List Part} {P : State → Prop}
    (hr : Ready h (opcodeOf r) q s) (hw : r.wellFormed = true)
    (ha : s.attached h = true ∨ openToDetached r = true) (hh : authorityOnly r = true → holder s = some h)
    (hc : carryOut h levels r (requestTaken h q r s) = (t, some ⟨res, payload⟩))
    (ho : OnlyChanges parts (requestTaken h q r s) t) (hp : t.ports = (requestTaken h q r s).ports)
    (hP : P (holdAnswer h (opcodeOf r) q ⟨res, payload⟩ t)) :
    ∃ u, (Host.Outcome.next (requestRow h q r levels s) : Host.Outcome State Fault Refusal) = .next u ∧
      RequestFrame h parts s u ∧ P u ∧ Answers h (opcodeOf r) q res payload u := by
  have hport : t.port h = (requestTaken h q r s).port h := by simp only [State.port, hp]
  obtain ⟨hf, hn⟩ := requestTaken_flags h q r s
  refine ⟨holdAnswer h (opcodeOf r) q ⟨res, payload⟩ t, ?_, requestFrame_holdAnswer ho hp, hP,
    answers_holdAnswer (hport ▸ hf) (hport ▸ hn)⟩
  rw [requestRow_answered hr hw ha hh hc]

/-- A request answered in its own event that changes nothing outside its port. -/
theorem request_unchanged {h : HostId} {q : Byte} {r : Request} {levels : Quad Level} {s : State} {res : Result}
    {payload : List Byte} (hr : Ready h (opcodeOf r) q s) (hw : r.wellFormed = true)
    (ha : s.attached h = true ∨ openToDetached r = true) (hh : authorityOnly r = true → holder s = some h)
    (hc : carryOut h levels r (requestTaken h q r s) = (requestTaken h q r s, some ⟨res, payload⟩)) :
    ∃ u, (Host.Outcome.next (requestRow h q r levels s) : Host.Outcome State Fault Refusal) = .next u ∧
      RequestFrame h [] s u ∧ Answers h (opcodeOf r) q res payload u := by
  obtain ⟨u, e, hf, -, hx⟩ :=
    request_outcome (P := fun _ => True) hr hw ha hh hc (OnlyChanges.refl [] _) rfl trivial
  exact ⟨u, e, hf, hx⟩

end Sys2Proof.Machine
end

