-- ==== Sys2Proof/Laws/Authority.lean ====
section
/-! SUPPORT. Laws/Authority.lean: what a change of source, the bridge of a store, the end of a SET_SOURCES wait, a hand-over
of the authority and the clearing of the main domain change and leave (R27, R30, R31, R35, R36, R111, R174). -/

namespace Sys2Proof.Machine

/-! ### A change of selected source -/

section SwitchTo

variable (x : Source) (s : State)

@[simp] theorem switchTo_count : (switchTo x s).count = s.count := rfl
@[simp] theorem switchTo_pool : (switchTo x s).pool = s.pool := rfl
@[simp] theorem switchTo_notices : (switchTo x s).notices = s.notices := rfl
@[simp] theorem switchTo_auth : (switchTo x s).auth = s.auth := rfl
@[simp] theorem switchTo_pins : (switchTo x s).pins = s.pins := rfl
@[simp] theorem switchTo_cap : (switchTo x s).cap = s.cap := rfl
@[simp] theorem switchTo_ports : (switchTo x s).ports = s.ports := rfl
@[simp] theorem switchTo_retained : (switchTo x s).retained = s.retained := rfl
@[simp] theorem switchTo_power : (switchTo x s).power = s.power := rfl
@[simp] theorem switchTo_pending : (switchTo x s).pending = s.pending := rfl
@[simp] theorem switchTo_selected : (switchTo x s).sup.selected = x := rfl
@[simp] theorem switchTo_leaving :
    (switchTo x s).sup.leaving = if driver s = x then none else some (driver s) := rfl

/-- A selection of another source: the switch, and its notice to every attached host (R27, R31). -/
theorem selectWithNotice_of_ne {cause : Cause} {stamp : Nat} (h : s.sup.selected ≠ x) :
    (selectWithNotice x cause stamp s).sup = (switchTo x s).sup ∧
    OnlyChanges [.sup, .notices] s (selectWithNotice x cause stamp s) ∧
    PostedAll (sourceNotice (switchTo x s) cause stamp) s (selectWithNotice x cause stamp s) := by
  simp only [selectWithNotice, h, if_false]
  refine ⟨by simp, by simp [OnlyChanges], fun g => ?_⟩
  rw [postAll_box]
  rfl

end SwitchTo

/-! ### The end of a wait -/

section EndWait

variable (r : Option Reply) (s : State)

/-- Without a running wait nothing ends. -/
theorem endWait_of_none (h : s.sup.wait = none) : endWait r s = s := by simp [endWait, h]

/-- The wait of a WORKING port ends with an answer held there (R35, R157). -/
theorem endWait_answered {x : Reply} {w : Wait} {op q : Byte} (h : s.sup.wait = some w)
    (hp : (s.port w.host).phase = .working op q) :
    endWait (some x) s = holdAnswer w.host op q x { s with sup := { s.sup with wait := none } } := by
  have hp' : (State.port { s with sup := { s.sup with wait := none } } w.host).phase = .working op q := hp
  simp [endWait, h, hp']

/-- A wait that ends without an answer (R36, R40). -/
theorem endWait_silent {w : Wait} (h : s.sup.wait = some w) :
    endWait none s = { s with sup := { s.sup with wait := none } } := by
  simp [endWait, h]

/-- What the end of a wait leaves. -/
theorem endWait_frame : OnlyChanges [.sup, .ports] s (endWait r s) ∧
    (endWait r s).sup = { s.sup with wait := none } := by
  unfold endWait
  split
  · next h =>
    refine ⟨OnlyChanges.refl _ _, ?_⟩
    cases hs : s.sup
    simp_all
  · dsimp only
    split <;> simp [OnlyChanges]

end EndWait

/-! ### The hand-over -/

@[simp] theorem postGranted_sup (h : HostId) (lease : Nat) (s : State) : (postGranted h lease s).sup = s.sup := by
  simp [postGranted]

/-- The arbiter after a grant (R108, R111). -/
@[simp] theorem grant_auth (h : HostId) (lease : Nat) (s : State) :
    (grant h lease s).auth = { s.auth with holding := some ⟨h, lease, 0⟩ } := by
  simp [grant, postGranted]

/-- What a grant leaves. -/
theorem grant_frame (h : HostId) (lease : Nat) (s : State) : OnlyChanges [.auth, .notices] s (grant h lease s) := by
  simp [OnlyChanges, grant, postGranted]

/-- A grant reaches its host with AUTH_GRANTED (R116). -/
theorem grant_postedTo (h : HostId) (lease : Nat) (s : State) :
    PostedTo h (grantedNotice s lease) s (grant h lease s) := by
  intro g
  simp only [grant, postGranted, post_box]
  by_cases e : g = h
  · subst e; rfl
  · simp only [e, false_and, if_false]; rfl

/-! ### The bridge of a store -/

/-- A bridge at a store ends the wait for the last edge of a source being left, and leaves the rest of the supervisor
(R30). -/
theorem storeBridge_sup (before : State) (levels : Quad Level) (s : State) :
    (storeBridge before levels s).sup =
      { s.sup with leaving := if (bridgedSource before s).isSome then none else s.sup.leaving } := by
  unfold storeBridge
  split
  · next x e => simp [e]
  · next e => simp [e]

/-! ### The cleared main domain -/

section MainDomainCleared

variable (s : State)

@[simp] theorem mainDomainCleared_count : (mainDomainCleared s).count = ⟨0, 0, .unset, 0, 0⟩ := rfl
@[simp] theorem mainDomainCleared_auth : (mainDomainCleared s).auth = ⟨none, []⟩ := rfl
@[simp] theorem mainDomainCleared_retained : (mainDomainCleared s).retained = s.retained := rfl
@[simp] theorem mainDomainCleared_power : (mainDomainCleared s).power = s.power := rfl
@[simp] theorem mainDomainCleared_pending : (mainDomainCleared s).pending = s.pending := rfl
@[simp] theorem mainDomainCleared_timer (i : Slot) : (mainDomainCleared s).timer i = none := by
  simp [mainDomainCleared, State.reset, State.timer, Vector.get_eq_getElem]
@[simp] theorem mainDomainCleared_box (h : HostId) : (mainDomainCleared s).box h = .initial := by
  cases h <;> rfl
@[simp] theorem mainDomainCleared_pin (p : PinId) : (mainDomainCleared s).pin p = none := by
  simp [mainDomainCleared, State.reset, State.pin]
@[simp] theorem mainDomainCleared_input (i : CapId) : (mainDomainCleared s).input i = .initial := by
  simp [mainDomainCleared, State.reset, State.input]
@[simp] theorem mainDomainCleared_port (h : HostId) :
    (mainDomainCleared s).port h = { Port.initial with hrst := (s.port h).hrst } := by
  cases h <;> rfl

@[simp] theorem mainReset_power : (mainReset s).power = { s.power with absence := false } := rfl
@[simp] theorem mainReset_retained : (mainReset s).retained = s.retained := rfl
@[simp] theorem mainReset_pending : (mainReset s).pending = s.pending := rfl

end MainDomainCleared

end Sys2Proof.Machine
end

