-- ==== Sys2Proof/Laws/Bytes.lean ====
section
/-! SUPPORT. Laws/Bytes.lean: the widths of the fields of frames, and a number read back from its bytes (R179). -/

namespace Sys2Proof.Machine

@[simp] theorem length_bytesOf (n v : Nat) : (bytesOf n v).length = n := by
  induction n with
  | zero => rfl
  | succ n ih => simp [bytesOf, ih]

@[simp] theorem length_signedBytes (n : Nat) (v : Int) : (signedBytes n v).length = n := by simp [signedBytes]

@[simp] theorem length_byteOf (n : Nat) : (byteOf n).length = 1 := by simp [byteOf]

@[simp] theorem length_timeBytes (t : Nat) : (timeBytes t).length = 9 := by simp [timeBytes]

@[simp] theorem length_durationBytes (v : Int) : (durationBytes v).length = 8 := by simp [durationBytes]

@[simp] theorem length_amountBytes (v : Int) : (amountBytes v).length = 11 := by simp [amountBytes]

@[simp] theorem length_listBytes (l : List Source) : (listBytes l).length = 4 := by simp [listBytes]

@[simp] theorem length_detailBytes (d : Detail) : (detailBytes d).length = 8 := by cases d <;> simp [detailBytes]

@[simp] theorem length_checkBytes (bs : List Byte) : (checkBytes bs).length = 2 := by simp [checkBytes]

/-- A possibly absent field occupies its bytes in any case (R181). -/
theorem length_maybe {width : Nat} {v : Option (List Byte)} (h : ∀ bs, v = some bs → bs.length = width) :
    (Field.maybe width v).bytes.length = width := by
  cases v with
  | none => simp [Field.bytes]
  | some bs => simpa [Field.bytes] using h bs rfl

/-- A notice record occupies 25 bytes (R181). -/
@[simp] theorem length_noticeBytes (n : Notice) : (noticeBytes n).length = 25 := by
  cases ho : n.origin <;> cases ht : n.tag <;> cases hd : n.detail <;> simp [noticeBytes, Field.bytes, ho, ht, hd]

/-- A capture record occupies 15 bytes (R181). -/
@[simp] theorem length_captureBytes (r : CapRecord) : (captureBytes r).length = 15 := by simp [captureBytes]

/-- One more byte in front of a spelled number. -/
theorem numOf_cons (b : Byte) (bs : List Byte) : numOf (b :: bs) = b.toNat * 256 ^ bs.length + numOf bs := by
  have shift : ∀ (l : List Byte) (x : Nat),
      l.foldl (fun acc c => acc * 256 + c.toNat) x =
        x * 256 ^ l.length + l.foldl (fun acc c => acc * 256 + c.toNat) 0 := by
    intro l
    induction l with
    | nil => intro x; simp
    | cons c l ih =>
      intro x
      simp only [List.foldl_cons, List.length_cons]
      rw [ih (x * 256 + c.toNat), ih (0 * 256 + c.toNat)]
      ring
  simp only [numOf, List.foldl_cons]
  rw [shift bs (0 * 256 + b.toNat)]
  ring

/-- The low `n` bytes of `v`, read back (R179). -/
theorem numOf_bytesOf (n v : Nat) : numOf (bytesOf n v) = v % 256 ^ n := by
  induction n with
  | zero => simp [bytesOf, numOf, Nat.mod_one]
  | succ n ih =>
    rw [bytesOf, numOf_cons, ih, length_bytesOf]
    have hb : (BitVec.ofNat 8 (v / 256 ^ n)).toNat = v / 256 ^ n % 256 := by simp
    rw [hb, pow_succ, Nat.mod_mul, Nat.mul_comm (256 ^ n)]
    ring

/-- A field written between other bytes is read back whole. -/
theorem fieldAt_append (front bs back : List Byte) :
    fieldAt (front ++ (bs ++ back)) front.length bs.length = numOf bs := by
  simp [fieldAt]

/-- A bit vector in its own bytes, read back. -/
theorem ofNat_numOf_bytesOf {w : Nat} (n : Nat) (v : BitVec w) (h : w = 8 * n) :
    BitVec.ofNat w (numOf (bytesOf n v.toNat)) = v := by
  subst h
  have hv : v.toNat < 256 ^ n := by
    have := v.isLt
    rwa [Nat.pow_mul] at this
  rw [numOf_bytesOf, Nat.mod_eq_of_lt hv]
  simp

end Sys2Proof.Machine
end

