-- ==== Sys2Proof/Laws/PerInstr.lean ====
section
/-! SUPPORT. Laws/PerInstr.lean: the statements made of every command, one lemma for each constructor. -/

namespace Sys2Proof.Laws

open Sys2Proof.Machine

/-- A row that is a host command carries a request with an opcode of the table (R180), and is well-formed exactly when
that request is. -/
def Encoding.Statement (i : Instr) : Prop :=
  ∀ h q r levels, hostCommand i = some (h, q, r, levels) →
    knownOpcode (opcodeOf r) = true ∧ i.wellFormed = r.wellFormed

/-- The statement of a row that is the host command of request `r`. -/
theorem Encoding.of_request {i : Instr} {h : HostId} {q : Byte} {r : Request} {levels : Quad Level}
    (e : hostCommand i = some (h, q, r, levels)) (hk : knownOpcode (opcodeOf r) = true)
    (hw : i.wellFormed = r.wellFormed) : Encoding.Statement i := by
  intro h' q' r' levels' e'
  rw [e] at e'
  cases e'
  exact ⟨hk, hw⟩

/-- The statement of a row that is no host command. -/
theorem Encoding.of_none {i : Instr} (e : hostCommand i = none) : Encoding.Statement i := by
  intro h q r levels e'
  rw [e] at e'
  cases e'

theorem Encoding.poll (h : HostId) (first : Option Byte) (more : List Byte) :
    Encoding.Statement (.poll h first more) := Encoding.of_none rfl

theorem Encoding.send (h : HostId) (frame : List Byte) (levels : Quad Level) :
    Encoding.Statement (.send h frame levels) := Encoding.of_none rfl

theorem Encoding.fetch (h : HostId) (more : Nat) : Encoding.Statement (.fetch h more) := Encoding.of_none rfl

theorem Encoding.attach (h : HostId) (seq : Byte) : Encoding.Statement (.attach h seq) :=
  Encoding.of_request rfl rfl rfl

theorem Encoding.detach (h : HostId) (seq : Byte) : Encoding.Statement (.detach h seq) :=
  Encoding.of_request rfl rfl rfl

theorem Encoding.status (h : HostId) (seq : Byte) : Encoding.Statement (.status h seq) :=
  Encoding.of_request rfl rfl rfl

theorem Encoding.echo (h : HostId) (seq : Byte) (data : List Byte) : Encoding.Statement (.echo h seq data) :=
  Encoding.of_request rfl rfl rfl

theorem Encoding.sessions (h : HostId) (seq : Byte) : Encoding.Statement (.sessions h seq) :=
  Encoding.of_request rfl rfl rfl

theorem Encoding.readTime (h : HostId) (seq : Byte) : Encoding.Statement (.readTime h seq) :=
  Encoding.of_request rfl rfl rfl

theorem Encoding.timeStatus (h : HostId) (seq : Byte) : Encoding.Statement (.timeStatus h seq) :=
  Encoding.of_request rfl rfl rfl

theorem Encoding.setTime (h : HostId) (seq : Byte) (value : TimeArg) : Encoding.Statement (.setTime h seq value) :=
  Encoding.of_request rfl rfl rfl

theorem Encoding.step (h : HostId) (seq : Byte) (amount : StepArg) : Encoding.Statement (.step h seq amount) :=
  Encoding.of_request rfl rfl rfl

theorem Encoding.slew (h : HostId) (seq : Byte) (amount : BitVec 64) : Encoding.Statement (.slew h seq amount) :=
  Encoding.of_request rfl rfl rfl

theorem Encoding.setTrim (h : HostId) (seq : Byte) (source : Byte) (trim : BitVec 32) :
    Encoding.Statement (.setTrim h seq source trim) :=
  Encoding.of_request rfl rfl rfl

theorem Encoding.setSources (h : HostId) (seq : Byte) (list : ListArg) (levels : Quad Level) :
    Encoding.Statement (.setSources h seq list levels) :=
  Encoding.of_request rfl rfl rfl

theorem Encoding.sourceStatus (h : HostId) (seq : Byte) : Encoding.Statement (.sourceStatus h seq) :=
  Encoding.of_request rfl rfl rfl

theorem Encoding.claim (h : HostId) (seq : Byte) (lease : BitVec 16) : Encoding.Statement (.claim h seq lease) :=
  Encoding.of_request rfl rfl rfl

theorem Encoding.release (h : HostId) (seq : Byte) : Encoding.Statement (.release h seq) :=
  Encoding.of_request rfl rfl rfl

theorem Encoding.withdraw (h : HostId) (seq : Byte) : Encoding.Statement (.withdraw h seq) :=
  Encoding.of_request rfl rfl rfl

theorem Encoding.authStatus (h : HostId) (seq : Byte) : Encoding.Statement (.authStatus h seq) :=
  Encoding.of_request rfl rfl rfl

theorem Encoding.alloc (h : HostId) (seq : Byte) : Encoding.Statement (.alloc h seq) :=
  Encoding.of_request rfl rfl rfl

theorem Encoding.free (h : HostId) (seq : Byte) (slot : Byte) : Encoding.Statement (.free h seq slot) :=
  Encoding.of_request rfl rfl rfl

theorem Encoding.arm (h : HostId) (seq : Byte) (args : ArmArg) : Encoding.Statement (.arm h seq args) :=
  Encoding.of_request rfl rfl rfl

theorem Encoding.cancel (h : HostId) (seq : Byte) (slot : Byte) : Encoding.Statement (.cancel h seq slot) :=
  Encoding.of_request rfl rfl rfl

theorem Encoding.timerStatus (h : HostId) (seq : Byte) (slot : Byte) : Encoding.Statement (.timerStatus h seq slot) :=
  Encoding.of_request rfl rfl rfl

theorem Encoding.take (h : HostId) (seq : Byte) : Encoding.Statement (.take h seq) :=
  Encoding.of_request rfl rfl rfl

theorem Encoding.ack (h : HostId) (seq : Byte) : Encoding.Statement (.ack h seq) :=
  Encoding.of_request rfl rfl rfl

theorem Encoding.peek (h : HostId) (seq : Byte) : Encoding.Statement (.peek h seq) :=
  Encoding.of_request rfl rfl rfl

theorem Encoding.setThreshold (h : HostId) (seq : Byte) (threshold : Byte) :
    Encoding.Statement (.setThreshold h seq threshold) :=
  Encoding.of_request rfl rfl rfl

theorem Encoding.bindPin (h : HostId) (seq : Byte) (pin idle : Byte) (width : BitVec 16) :
    Encoding.Statement (.bindPin h seq pin idle width) :=
  Encoding.of_request rfl rfl rfl

theorem Encoding.unbindPin (h : HostId) (seq : Byte) (pin : Byte) : Encoding.Statement (.unbindPin h seq pin) :=
  Encoding.of_request rfl rfl rfl

theorem Encoding.drivePin (h : HostId) (seq : Byte) (pin action : Byte) :
    Encoding.Statement (.drivePin h seq pin action) :=
  Encoding.of_request rfl rfl rfl

theorem Encoding.pinStatus (h : HostId) (seq : Byte) (pin : Byte) : Encoding.Statement (.pinStatus h seq pin) :=
  Encoding.of_request rfl rfl rfl

theorem Encoding.setEdges (h : HostId) (seq : Byte) (input selection : Byte) :
    Encoding.Statement (.setEdges h seq input selection) :=
  Encoding.of_request rfl rfl rfl

theorem Encoding.subscribe (h : HostId) (seq : Byte) (input cls : Byte) :
    Encoding.Statement (.subscribe h seq input cls) :=
  Encoding.of_request rfl rfl rfl

theorem Encoding.unsubscribe (h : HostId) (seq : Byte) (input : Byte) :
    Encoding.Statement (.unsubscribe h seq input) :=
  Encoding.of_request rfl rfl rfl

theorem Encoding.readCapture (h : HostId) (seq : Byte) (which : Byte) :
    Encoding.Statement (.readCapture h seq which) :=
  Encoding.of_request rfl rfl rfl

theorem Encoding.advance (levels : Quad Level) : Encoding.Statement (.advance levels) := Encoding.of_none rfl

theorem Encoding.expiry : Encoding.Statement .expiry := Encoding.of_none rfl

theorem Encoding.pulseEnd (pin : PinId) : Encoding.Statement (.pulseEnd pin) := Encoding.of_none rfl

theorem Encoding.capture : Encoding.Statement .capture := Encoding.of_none rfl

theorem Encoding.leaseExpiry : Encoding.Statement .leaseExpiry := Encoding.of_none rfl

theorem Encoding.rcCycle : Encoding.Statement .rcCycle := Encoding.of_none rfl

theorem Encoding.sourceEdge (source : Watched) : Encoding.Statement (.sourceEdge source) := Encoding.of_none rfl

theorem Encoding.sourceLoss (source : Watched) (levels : Quad Level) :
    Encoding.Statement (.sourceLoss source levels) := Encoding.of_none rfl

theorem Encoding.qualification (source : Watched) : Encoding.Statement (.qualification source) := Encoding.of_none rfl

theorem Encoding.holdOffEnd (source : Watched) : Encoding.Statement (.holdOffEnd source) := Encoding.of_none rfl

theorem Encoding.waitTimeout : Encoding.Statement .waitTimeout := Encoding.of_none rfl

theorem Encoding.hrstAssert (h : HostId) : Encoding.Statement (.hrstAssert h) := Encoding.of_none rfl

theorem Encoding.mainResetConditionBegin (cause : ResetCause) :
    Encoding.Statement (.mainResetConditionBegin cause) := Encoding.of_none rfl

theorem Encoding.resetnRelease : Encoding.Statement .resetnRelease := Encoding.of_none rfl

theorem Encoding.powerUpDelayEnd : Encoding.Statement .powerUpDelayEnd := Encoding.of_none rfl

theorem Encoding.vmainLoss : Encoding.Statement .vmainLoss := Encoding.of_none rfl

theorem Encoding.lpCycle : Encoding.Statement .lpCycle := Encoding.of_none rfl

theorem Encoding.retainedStateLoss : Encoding.Statement .retainedStateLoss := Encoding.of_none rfl

theorem Encoding.coldStart : Encoding.Statement .coldStart := Encoding.of_none rfl

theorem Encoding.hrstRelease (h : HostId) : Encoding.Statement (.hrstRelease h) := Encoding.of_none rfl

theorem Encoding.vmainRise : Encoding.Statement .vmainRise := Encoding.of_none rfl

end Sys2Proof.Laws
end

