-- ==== Sys2Proof/Tests/Slice0.lean ====
section
/-! SUPPORT. Tests/Slice0.lean: ill-formed terms refused, frames written out from the spec, a worked example or two of
a command, and for every statement with hypotheses a state and operands that meet them. -/

namespace Sys2Proof.Tests

open Sys2Proof.Machine

/-! ### WellFormed -/

theorem test_poll_first_send : Instr.wellFormed (.poll .a (some 0xA5) []) = false := by decide
theorem test_poll_first_fetch : Instr.wellFormed (.poll .a (some 0x5A) []) = false := by decide
theorem test_poll_first_other : Instr.wellFormed (.poll .a (some 0x00) [1, 2, 3]) = true := by decide
theorem test_echo_49 : Instr.wellFormed (.echo .a 0 (List.replicate 49 0)) = false := by decide
theorem test_echo_48 : Instr.wellFormed (.echo .a 0 (List.replicate 48 0)) = true := by decide

/-! ### Frames (R152, R153, R180) -/

/-- The check of R153 over the nine digits, the known value of this generator and starting register. -/
theorem test_crc_digits :
    crc16 [0x31, 0x32, 0x33, 0x34, 0x35, 0x36, 0x37, 0x38, 0x39] = 0x29B1 := by decide +kernel

/-- SET_TRIM of EXT (2) to -1: opcode 20, sequence 7, five payload bytes (R152, R180). -/
theorem test_decode_set_trim :
    decodeRequest 0x20 [0x02, 0xFF, 0xFF, 0xFF, 0xFF] = some (.setTrim 2 (BitVec.ofInt 32 (-1))) := by decide

/-- CLAIM for 600 s is 0x0258, most significant byte first (R179). -/
theorem test_decode_claim : decodeRequest 0x30 [0x02, 0x58] = some (.claim 600) := by decide

theorem test_decode_step :
    decodeRequest 0x13 [0x01, 0, 0, 0, 0, 0, 0x02, 0, 0, 0, 0x05] = some (.step ⟨1, 2, 5⟩) := by decide

theorem test_decode_arm :
    decodeRequest 0x42 [0x05, 1, 1, 0, 0, 0, 0, 0, 0, 0, 0, 9, 0, 0, 0, 0, 0, 0, 0x27, 0x10, 3, 1, 0x12, 0x34, 2, 4] =
      some (.arm ⟨5, 1, 1, 9, 10000, 3, 1, 0x1234, some (2, 4)⟩) := by decide

theorem test_decode_bind : decodeRequest 0x60 [3, 1, 0x01, 0x00] = some (.bindPin 3 1 256) := by decide
theorem test_decode_drive : decodeRequest 0x62 [3, 4] = some (.drivePin 3 4) := by decide
theorem test_decode_subscribe : decodeRequest 0x71 [2, 1] = some (.subscribe 2 1) := by decide
theorem test_decode_take : decodeRequest 0x50 [] = some .take := by decide
theorem test_decode_attach : decodeRequest 0x01 [] = some .attach := by decide

/-- A RUNT: the declared payload is not all there (R153). -/
theorem test_runt : parseFrame [0x30, 0x01, 0x02, 0x02] = none := by decide

/-- An empty queue idles, and no word of the table spells a command. -/
theorem test_no_word : decodeTableWord 8 0x10 = none := rfl

/-! ### States for the witnesses -/

/-- A port of an attached host, IDLE. -/
def idlePort : Port := { Port.initial with attached := true }

/-- A notice TIME_STEPPED, and one of the timer in slot 5. -/
def stepped : Notice := ⟨.timeStepped, 4, 900, none, none, 1, some (.number 3), ⟨false, true, false, false⟩⟩
def fired : Notice := ⟨.timer, 2, 950, some (.slot 5), some 7, 1, some (.number 1), ⟨false, true, false, false⟩⟩

/-- The timer in slot 5 of host A: PERIODIC, ELAPSED, its deadline at 2,000 ns. -/
def timer5 : Timer := ⟨.a, some ⟨2000, 0⟩, .periodic 10000, .elapsed, 2, true, some ⟨1, .toggle⟩, 7, 1, 0⟩

/-- Pin EVO1, bound to host A. -/
def pin1 : PinRecord := ⟨.a, .low, .low, 10, none, none⟩

/-- A capture record of CAP2 that owes host B. -/
def record2 : CapRecord := ⟨0, 2, .rising, 800, .rc, true, false, false, ⟨false, true, false⟩⟩

/-- CAP2 with host B subscribed in class 1. -/
def input2 : CapInput := ⟨.both, some .low, none, ⟨none, some 1, none⟩, ⟨0, 3, 0⟩⟩

/-- Hosts A and B attached, A the holder, B waiting, a timer armed, a pin bound, a record in the log, notices queued. -/
def demo : State :=
  { State.reset with
    count := ⟨1000, 0, .set, 5, 0⟩
    pool := ⟨(Vector.replicate 48 none).set 5 (some timer5), 1⟩
    notices := ⟨⟨[stepped, fired], none, 3, 2⟩, .initial, .initial⟩
    auth := ⟨some ⟨.a, 10, 0⟩, [⟨.b, 20⟩]⟩
    pins := (Quad.const none).set 1 (some pin1)
    cap := ⟨(Quad.const .initial).set 2 input2, [record2], 1, []⟩
    ports := ⟨idlePort, idlePort, Port.initial⟩
    retained := some ⟨0, 0, true, ⟨0, 0, 0⟩, [.xo, .rc]⟩ }

theorem demo_timer (i : Slot) : demo.timer i = if i = 5 then some timer5 else none := by
  revert i
  decide

theorem ready_of_idle {h : HostId} {op q : Byte} {s : State} (hr : s.running = true) (hl : (s.port h).hrst = false)
    (hp : (s.port h).phase = .idle) : Ready h op q s :=
  ⟨hr, hl, fun o p => by simp [hp], by simp [retryOf, hp]⟩

/-- Host A of `demo` is ready, attached and the holder. -/
theorem demo_a (op q : Byte) : TakesAsHolder .a op q demo :=
  ⟨⟨ready_of_idle (by decide) (by decide) (by decide), by decide⟩, by decide⟩

/-- Host B of `demo` is ready, attached and not the holder. -/
theorem demo_b (op q : Byte) : Takes .b op q demo :=
  ⟨ready_of_idle (by decide) (by decide) (by decide), by decide⟩

/-- Host C of `demo` is ready and detached. -/
theorem demo_c (op q : Byte) : Ready .c op q demo ∧ demo.attached .c = false :=
  ⟨ready_of_idle (by decide) (by decide) (by decide), by decide⟩

/-! ### `demo` meets every invariant, and a step of it answers a next state -/

theorem demo_queues : QueueInv demo := by
  intro h
  cases h
  · exact ⟨by decide, by decide, by decide, by decide, by decide, by decide⟩
  · exact ⟨by decide, by decide, by decide, by decide, by decide, by decide⟩
  · exact ⟨by decide, by decide, by decide, by decide, by decide, by decide⟩

theorem demo_system_notices : SystemNoticeInv demo := by
  refine ⟨fun h n hn => ?_, fun i t ht => ?_, fun i h c hc => ?_⟩
  · cases h
    · have : n = stepped ∨ n = fired := by simpa [State.box, demo, PerHost.get] using hn
      rcases this with rfl | rfl <;> simp [stepped, fired, SystemShape]
    · simp [State.box, demo, PerHost.get, NoticeBox.initial] at hn
    · simp [State.box, demo, PerHost.get, NoticeBox.initial] at hn
  · rw [demo_timer] at ht
    split at ht
    · cases ht; decide
    · cases ht
  · have : c = 1 := by
      revert hc
      match i with
      | 0 => cases h <;> simp [State.input, demo, Quad.const, Quad.set, Quad.get, CapInput.initial, PerHost.get,
          PerHost.const]
      | 1 => cases h <;> simp [State.input, demo, Quad.const, Quad.set, Quad.get, CapInput.initial, PerHost.get,
          PerHost.const]
      | 2 =>
        cases h <;> simp [State.input, demo, Quad.const, Quad.set, Quad.get, input2, PerHost.get]
        omega
      | 3 => cases h <;> simp [State.input, demo, Quad.const, Quad.set, Quad.get, CapInput.initial, PerHost.get,
          PerHost.const]
    omega

theorem demo_authority : AuthInv demo := by
  refine ⟨fun x hx => ?_, by decide, by decide, by decide, by decide⟩
  cases hx
  decide

theorem demo_capture_log : CaptureInv demo := by
  refine ⟨by decide, by decide, fun r hr => ?_, fun i h hs => ?_, fun i h => ?_⟩
  · have : r = record2 := by simpa [demo] using hr
    subst this
    refine ⟨⟨.b, by decide⟩, fun h => ?_⟩
    cases h <;> decide
  · revert hs
    match i with
    | 0 => cases h <;> decide
    | 1 => cases h <;> decide
    | 2 => cases h <;> decide
    | 3 => cases h <;> decide
  · match i with
    | 0 => cases h <;> decide
    | 1 => cases h <;> decide
    | 2 => cases h <;> decide
    | 3 => cases h <;> decide

theorem demo_pin (p : PinId) : demo.pin p = if p = 1 then some pin1 else none := by
  revert p
  decide

theorem demo_pool : PoolInv demo := by
  refine ⟨fun h => by cases h <;> decide, fun i t ht => ?_, fun p r hr => ?_⟩
  · rw [demo_timer] at ht
    split at ht
    · cases ht
      refine ⟨by decide, by decide, by decide, by decide, fun p hp => ?_, by decide, fun _ u hu => ⟨pin1, ?_⟩⟩
      · cases hp; decide
      · cases hu; decide
    · cases ht
  · rw [demo_pin] at hr
    split at hr
    · cases hr; decide
    · cases hr

theorem demo_sequences : SequenceInv demo := by
  refine ⟨by decide, fun i t x ht hx => ?_⟩
  rw [demo_timer] at ht
  split at ht
  · next hi =>
    cases ht; cases hx
    refine ⟨by decide, fun j u y hu _ _ => ?_⟩
    rw [demo_timer] at hu
    split at hu
    · next hj => rw [hi, hj]
    · cases hu
  · cases ht

theorem demo_count : CountInv demo := by
  refine ⟨by decide, by decide, by decide, by decide, by decide, fun r hr => ?_⟩
  cases hr
  decide

theorem demo_supervisor : SupervisorInv demo := by
  have ok : SettingsOk [.xo, .rc] ⟨0, 0, 0⟩ := ⟨by decide, by decide, fun x => by cases x <;> decide⟩
  refine ⟨ok, by decide, by decide, by decide, fun x hx => ?_, fun r hr => ?_, fun _ => by decide, fun _ r hr => ?_,
    by decide, by decide⟩
  · cases hx
  · cases hr; exact ok
  · cases hr; decide

theorem demo_ports : PortInv demo := by
  refine ⟨fun h => by cases h <;> decide, fun h => ⟨fun hw => ?_, fun hw => ?_⟩, fun w hw => ?_⟩
  · obtain ⟨op, q, e⟩ := hw
    cases h <;> simp [State.port, demo, PerHost.get, idlePort, Port.initial] at e
  · obtain ⟨w, e, -⟩ := hw
    cases e
  · cases hw

/-- `demo` with READ_TIME of host A waiting. -/
def busy : State := { demo with pending := [.readTime .a 3] }

theorem busy_steps : ∃ t, Sys2Proof.Machine.step busy = .next t := ⟨_, rfl⟩

theorem test_witness_StepTakesFrontCommand : busy.pending = [.readTime .a 3] ∧ demo.pending = [] := by decide
theorem test_witness_StepKeepsQueues : QueueInv busy ∧ ∃ t, Sys2Proof.Machine.step busy = .next t :=
  ⟨demo_queues, busy_steps⟩
theorem test_witness_StepKeepsSystemNotices : SystemNoticeInv busy ∧ ∃ t, Sys2Proof.Machine.step busy = .next t :=
  ⟨demo_system_notices, busy_steps⟩
theorem test_witness_StepKeepsAuthority : AuthInv busy ∧ ∃ t, Sys2Proof.Machine.step busy = .next t :=
  ⟨demo_authority, busy_steps⟩
theorem test_witness_StepKeepsCaptureLog : CaptureInv busy ∧ ∃ t, Sys2Proof.Machine.step busy = .next t :=
  ⟨demo_capture_log, busy_steps⟩
theorem test_witness_StepKeepsPool : PoolInv busy ∧ ∃ t, Sys2Proof.Machine.step busy = .next t :=
  ⟨demo_pool, busy_steps⟩
theorem test_witness_StepKeepsSequences : SequenceInv busy ∧ ∃ t, Sys2Proof.Machine.step busy = .next t :=
  ⟨demo_sequences, busy_steps⟩
theorem test_witness_StepKeepsCount : CountInv busy ∧ ∃ t, Sys2Proof.Machine.step busy = .next t :=
  ⟨demo_count, busy_steps⟩
theorem test_witness_StepKeepsSupervisor : SupervisorInv busy ∧ ∃ t, Sys2Proof.Machine.step busy = .next t :=
  ⟨demo_supervisor, busy_steps⟩
theorem test_witness_StepKeepsPorts : PortInv busy ∧ ∃ t, Sys2Proof.Machine.step busy = .next t :=
  ⟨demo_ports, busy_steps⟩

/-! ### Witnesses: frames and transactions -/

/-- A port that is IDLE takes any request of its attached host. -/
theorem takes_idle {h : HostId} {op q : Byte} {s : State}
    (e : (s.running && !(s.port h).hrst && ((s.port h).phase = .idle) && s.attached h) = true) : Takes h op q s := by
  simp only [Bool.and_eq_true, Bool.not_eq_true', decide_eq_true_eq] at e
  exact ⟨ready_of_idle e.1.1.1 e.1.1.2 e.1.2, e.2⟩

theorem holds_idle {h : HostId} {op q : Byte} {s : State}
    (e : (s.running && !(s.port h).hrst && ((s.port h).phase = .idle) && s.attached h) = true)
    (hh : holder s = some h) : TakesAsHolder h op q s := ⟨takes_idle e, hh⟩

/-- `demo` with another count. -/
def atTime (time : Nat) (x : SetState) : State := { demo with count := ⟨time, 0, x, 0, 0⟩ }

/-- Host A waits for EXT, which has no edges yet. -/
def waiting : State :=
  { demo with
    sup := { demo.sup with list := [.ext, .rc], xo := .off, ext := .waiting, wait := some ⟨.a, 7⟩ }
    ports := { demo.ports with a := { idlePort with phase := .working 0x21 9 } } }

/-- An answer of host B, and a port that holds it. -/
def answer4 : Answer := ⟨0x50, 4, .empty, [0]⟩
def answeredB : State :=
  { demo with ports := { demo.ports with
      b := { idlePort with phase := .answered answer4, record := some ⟨0x50, 4, answer4⟩ } } }

def frame (op seq : Byte) (payload : List Byte) : Frame := ⟨op, seq, payload, crc16 (checkedBytes op seq payload)⟩

theorem test_witness_FrameCarriesRequest :
    Request.wellFormed (.echo (List.replicate 48 0)) = true ∧ (0x04, List.range 49) ∈ acceptedLengths ∧
    (List.replicate 48 (0 : Byte)).length ∈ List.range 49 ∧ (0x42, [24, 26]) ∈ acceptedLengths ∧
    (List.replicate 26 (0 : Byte)).length ∈ [24, 26] := by decide

theorem test_witness_SendOfFrameIsCommandRow :
    hostCommand (.setSources .a 1 ⟨2, 1, 3, 0⟩ noLevels) = some (.a, 1, .setSources ⟨2, 1, 3, 0⟩, noLevels) ∧
    Instr.wellFormed (.setSources .a 1 ⟨2, 1, 3, 0⟩ noLevels) = true ∧
    hostCommand (.take .b 1) = some (.b, 1, .take, noLevels) ∧ ∀ l, Request.take ≠ .setSources l :=
  ⟨rfl, rfl, rfl, fun _ => nofun⟩

theorem test_witness_PollAndFetch :
    (portOpen demo .a = true ∧ (0x5B : Byte) ≠ 0xA5 ∧ (0x5B : Byte) ≠ 0x5A) ∧
    portOpen { demo with power := ⟨.operating, true, false⟩ } .a = false ∧
    hostCommand (.take .b 1) = some (.b, 1, .take, noLevels) := ⟨by decide, by decide, rfl⟩

theorem test_witness_SendNotTaken :
    (portOpen waiting .a = true ∧ (waiting.port .a).phase = .working 0x21 9) ∧
    (portOpen answeredB .b = true ∧ ∀ op q, (answeredB.port .b).phase ≠ .working op q) ∧ parseFrame [] = none ∧
    parseFrame [0x50, 4, 0, 0, 0] = some ⟨0x50, 4, [], 0⟩ ∧ (0 : BitVec 16) ≠ crc16 [0x50, 4, 0] ∧
    parseFrame ([0x50, 4, 0] ++ checkBytes [0x50, 4, 0]) = some (frame 0x50 4 []) ∧ (frame 0x50 4 []).passes = true ∧
    (answeredB.port .b).phase = .answered answer4 ∧
    (answeredB.port .b).record = some ⟨(frame 0x50 4 []).op, (frame 0x50 4 []).seq, answer4⟩ :=
  ⟨by decide, ⟨by decide, fun _ _ => nofun⟩, by decide, by decide, by decide +kernel, by decide +kernel,
    by decide +kernel, by decide, by decide⟩

theorem test_witness_UnknownRequestsAnswered :
    (parseFrame ([0x06, 1, 0] ++ checkBytes [0x06, 1, 0]) = some (frame 0x06 1 []) ∧ (frame 0x06 1 []).passes = true ∧
      Ready .a 0x06 1 demo ∧ ∀ lengths, ((0x06 : Byte), lengths) ∉ acceptedLengths) ∧
    parseFrame ([0x10, 1, 1, 7] ++ checkBytes [0x10, 1, 1, 7]) = some (frame 0x10 1 [7]) ∧
    (frame 0x10 1 [7]).passes = true ∧ Ready .a 0x10 1 demo ∧ (0x10, [0]) ∈ acceptedLengths ∧
    (frame 0x10 1 [7]).payload.length ∉ [0] :=
  ⟨⟨by decide +kernel, by decide +kernel, (demo_a _ _).1.1, by simp [acceptedLengths]⟩, by decide +kernel,
    by decide +kernel, (demo_a _ _).1.1, by decide, by decide⟩

theorem test_witness_RefusedAtValidation :
    (hostCommand (.take .c 1) = some (.c, 1, .take, noLevels) ∧ Ready .c 0x50 1 demo ∧ demo.attached .c = false) ∧
    hostCommand (.slew .b 1 5) = some (.b, 1, .slew 5, noLevels) ∧ Takes .b 0x14 1 demo ∧ holder demo ≠ some .b :=
  ⟨⟨rfl, demo_c _ _⟩, rfl, demo_b _ _, by decide⟩

theorem test_witness_SessionCommands :
    Ready .c 0x01 1 demo ∧ Ready .c 0x03 1 demo ∧ Takes .b 0x04 1 demo ∧ (List.replicate 48 (0 : Byte)).length ≤ 48 ∧
    Takes .b 0x05 1 demo := ⟨(demo_c _ _).1, (demo_c _ _).1, demo_b _ _, by decide, demo_b _ _⟩

theorem test_witness_DetachTearsDown :
    (Takes .a 0x02 1 demo ∧ holder demo = some .a) ∧ Takes .b 0x02 1 demo ∧ holder demo ≠ some .b :=
  ⟨demo_a _ _, demo_b _ _, by decide⟩

/-! ### Witnesses: the time count -/

theorem test_witness_TimeReads : Takes .a 0x10 1 demo ∧ Takes .b 0x11 1 demo := ⟨(demo_a _ _).1, demo_b _ _⟩

theorem test_witness_FirstSet :
    TakesAsHolder .a 0x12 1 (atTime 1000 .unset) ∧ (atTime 1000 .unset).count.setState = .unset ∧
    (⟨1099511627775, 999999999⟩ : TimeArg).nanoseconds.toNat ≤ 999999999 :=
  ⟨holds_idle (by decide) (by decide), by decide, by decide⟩

theorem demo_periods : PeriodsPositive demo := by
  intro i x p hx hp
  rw [demo_timer] at hx
  split at hx
  · cases hx; cases hp; decide
  · cases hx

/-- A step forward to the greatest time value, and one back to 0. -/
theorem test_witness_StepsOfTheCount :
    demo.count.setState ≠ .unset ∧ PeriodsPositive demo ∧ TakesAsHolder .a 0x12 1 demo ∧ TakesAsHolder .a 0x13 1 demo ∧
    (let v : StepArg := ⟨0, 1099511627775, 999998999⟩
     let d : Int := 1099511627775999998999
     v.nanoseconds.toNat ≤ 999999999 ∧ v.sign = 0 ∧
      d = (v.seconds.toNat * 1000000000 + v.nanoseconds.toNat : Nat) ∧ d.natAbs ≤ 1099511627776000000000 ∧
      0 ≤ (demo.count.time : Int) + d ∧ (demo.count.time : Int) + d < 1099511627776000000000) ∧
    (let v : StepArg := ⟨1, 0, 1000⟩
     let d : Int := -1000
     v.nanoseconds.toNat ≤ 999999999 ∧ v.sign = 1 ∧
      d = -((v.seconds.toNat * 1000000000 + v.nanoseconds.toNat : Nat) : Int) ∧
      d.natAbs ≤ 1099511627776000000000 ∧
      0 ≤ (demo.count.time : Int) + d ∧ (demo.count.time : Int) + d < 1099511627776000000000) :=
  ⟨by decide, demo_periods, demo_a _ _, demo_a _ _, by decide, by decide⟩

theorem test_witness_SlewReplacesRemainder :
    TakesAsHolder .a 0x14 1 demo ∧ demo.count.setState ≠ .unset ∧
    -999999999 ≤ (BitVec.ofInt 64 (-999999999)).toInt ∧ (BitVec.ofInt 64 (-999999999)).toInt ≤ 999999999 :=
  ⟨demo_a _ _, by decide, by decide, by decide⟩

theorem test_witness_TimeCommandsRefused :
    (TakesAsHolder .a 0x12 1 demo ∧ 999999999 < (⟨0, 1000000000⟩ : TimeArg).nanoseconds.toNat) ∧
    (TakesAsHolder .a 0x13 1 (atTime 5 .unset) ∧ (atTime 5 .unset).count.setState = .unset) ∧
    (TakesAsHolder .a 0x13 1 demo ∧ demo.count.setState ≠ .unset ∧ (⟨1, 0, 1001⟩ : StepArg).sign = 1 ∧
      demo.count.time < (⟨1, 0, 1001⟩ : StepArg).seconds.toNat * 1000000000 +
        (⟨1, 0, 1001⟩ : StepArg).nanoseconds.toNat ∧
      1099511627776000000000 ≤ demo.count.time + (1099511627775 * 1000000000 + 999999000)) ∧
    TakesAsHolder .a 0x14 1 (atTime 5 .unset) ∧ 999999999 < (1000000000 : BitVec 64).toInt :=
  ⟨⟨demo_a _ _, by decide⟩, ⟨holds_idle (by decide) (by decide), by decide⟩,
    ⟨demo_a _ _, by decide, by decide, by decide, by decide⟩, holds_idle (by decide) (by decide), by decide⟩

/-- The last count before an advance that is held, and the first one that is; and of a bridge of 2,000 ns. -/
theorem test_witness_AdvanceMovesCount :
    (let s := { demo with count := ⟨1099511627775999999937, 2147483647, .set, 0, 0⟩ };
      s.running = true ∧
      s.count.time * 4294967296 + s.count.residue + nextAdvance s < 1099511627776000000000 * 4294967296) ∧
    1099511627775999997999 * 4294967296 + 4294967295 + 2000 * 4294967296 < 1099511627776000000000 * 4294967296 := by
  decide

theorem test_witness_AdvanceHoldsCount :
    (let s := { demo with count := ⟨1099511627775999999937, 2147483648, .set, 0, 0⟩ };
      s.running = true ∧
      1099511627776000000000 * 4294967296 ≤ s.count.time * 4294967296 + s.count.residue + nextAdvance s) ∧
    1099511627776000000000 * 4294967296 ≤ 1099511627775999998000 * 4294967296 + 0 + 2000 * 4294967296 := by decide

theorem test_witness_AdvanceAmount (x : Source) :
    let s := { demo with sup := { demo.sup with trims := ⟨50000000, -50000000, 0⟩ } };
    -50000000 ≤ s.sup.trims.get x ∧ s.sup.trims.get x ≤ 50000000 := by cases x <;> decide

theorem test_witness_AdvanceSamplesInputs : demo.running = true := by decide

/-! ### Witnesses: timers -/

/-- 32 slots of host A and 16 FREE ones; and no FREE slot. -/
def crowded : State :=
  { demo with pool := ⟨(Vector.replicate 32 (some (.cleared .a)) : Vector (Option Timer) 32) ++
      (Vector.replicate 16 none : Vector (Option Timer) 16), 0⟩ }
def exhausted : State := { demo with pool := ⟨Vector.replicate 48 (some (.cleared .b)), 0⟩ }

theorem test_witness_AllocGivesLowestFreeSlot :
    (Takes .a 0x40 1 crowded ∧ allocationCount crowded .a = 32) ∧ (Takes .a 0x40 1 exhausted ∧ freeCount exhausted = 0) ∧
    Takes .a 0x40 1 demo ∧ allocationCount demo .a ≠ 32 ∧ demo.timer 0 = none ∧ ∀ j : Slot, j < 0 → demo.timer j ≠ none :=
  ⟨⟨takes_idle (by decide), by decide⟩, ⟨takes_idle (by decide), by decide⟩, (demo_a _ _).1, by decide, by decide,
    fun _ h => absurd h (by simp)⟩

/-- `demo` with another record in slot 5. -/
def withTimer (x : Timer) : State := demo.setTimer 5 (some x)

theorem test_witness_CancelAndFree :
    (Takes .a 0x43 1 demo ∧ Takes .a 0x41 1 demo ∧ (5 : Byte).toNat = (5 : Slot).val ∧ demo.timer 5 = some timer5 ∧
      timer5.owner = .a ∧ timer5.armed ≠ none) ∧
    Takes .a 0x43 1 (withTimer { timer5 with armed := none }) ∧
    (withTimer { timer5 with armed := none }).timer 5 = some { timer5 with armed := none } :=
  ⟨⟨(demo_a _ _).1, (demo_a _ _).1, by decide, by decide, by decide, by decide⟩, takes_idle (by decide), by decide⟩

/-- An ARM of slot 5 with action TOGGLE of EVO1. -/
def arm5 (kind basis : Byte) (when : BitVec 72) : ArmArg := ⟨5, kind, basis, when, 10000, 2, 1, 7, some (1, 3)⟩
def settings5 (kind : TimerKind) (basis : Basis) (when : Nat) : ArmSettings :=
  ⟨kind, basis, when, 2, true, some ⟨1, .toggle⟩, 7⟩

theorem arm5_pin : ∀ u, (some ⟨1, .toggle⟩ : Option PinUse) = some u → ∃ r, demo.pin u.pin = some r ∧ r.owner = .a := by
  intro u hu
  cases hu
  exact ⟨pin1, by decide, by decide⟩

/-- `demo` with the sequence counter at its greatest value. -/
def lastSequence : State := { demo with pool := { demo.pool with nextSeq := 4294967295 } }

theorem lastSequence_sequences : SequenceInv lastSequence := by
  refine ⟨by decide, fun i t x ht hx => ?_⟩
  obtain ⟨-, h⟩ := demo_sequences
  obtain ⟨h1, h2⟩ := h i t x ht hx
  have : demo.pool.nextSeq ≤ lastSequence.pool.nextSeq := by decide
  exact ⟨by omega, h2⟩

/-- Each shape of a first deadline that lies later than the count, 1,000 ns: a delay, ONCE, PERIODIC in the future, and
PERIODIC in the past with one period skipped. -/
theorem test_witness_ArmForLater :
    Takes .a 0x42 1 demo ∧ SequenceInv demo ∧ SequenceInv lastSequence ∧ (5 : Byte).toNat = (5 : Slot).val ∧
    demo.timer 5 = some timer5 ∧ timer5.owner = .a ∧ demo.count.setState ≠ .unset ∧
    (∀ u, (settings5 .once .elapsed 1).action = some u → ∃ r, demo.pin u.pin = some r ∧ r.owner = .a) ∧
    (armSettings (arm5 1 1 1) = some (settings5 (.periodic 10000) .elapsed 1) ∧
      FirstDeadline (settings5 (.periodic 10000) .elapsed 1) demo.count.time 1001 0) ∧
    (armSettings (arm5 0 0 1001) = some (settings5 .once .absolute 1001) ∧
      FirstDeadline (settings5 .once .absolute 1001) demo.count.time 1001 0) ∧
    (armSettings (arm5 1 0 1001) = some (settings5 (.periodic 10000) .absolute 1001) ∧
      FirstDeadline (settings5 (.periodic 10000) .absolute 1001) demo.count.time 1001 0) ∧
    armSettings (arm5 1 0 1000) = some (settings5 (.periodic 10000) .absolute 1000) ∧
    FirstDeadline (settings5 (.periodic 10000) .absolute 1000) demo.count.time 11000 1 ∧ demo.count.time < 1001 :=
  ⟨(demo_a _ _).1, demo_sequences, lastSequence_sequences, by decide, by decide, by decide, by decide, arm5_pin,
    ⟨by decide, by simp [FirstDeadline, settings5, demo]⟩, ⟨by decide, by simp [FirstDeadline, settings5]⟩,
    ⟨by decide, by simp [FirstDeadline, settings5, demo, maxTime, secondsLimit, nsPerSecond]⟩, by decide, by simp [FirstDeadline, settings5, demo, maxTime, secondsLimit, nsPerSecond],
    by decide⟩

/-- A delay of 0, for ONCE and PERIODIC, and ABSOLUTE ONCE at the count. -/
theorem test_witness_ArmExpiresAtOnce :
    Takes .a 0x42 1 demo ∧ SequenceInv demo ∧ (5 : Byte).toNat = (5 : Slot).val ∧ demo.timer 5 = some timer5 ∧
    timer5.owner = .a ∧ demo.count.setState ≠ .unset ∧
    (∀ u, (settings5 .once .elapsed 0).action = some u → ∃ r, demo.pin u.pin = some r ∧ r.owner = .a) ∧
    (armSettings (arm5 1 1 0) = some (settings5 (.periodic 10000) .elapsed 0) ∧
      FirstDeadline (settings5 (.periodic 10000) .elapsed 0) demo.count.time 1000 0) ∧
    armSettings (arm5 0 0 1000) = some (settings5 .once .absolute 1000) ∧
    FirstDeadline (settings5 .once .absolute 1000) demo.count.time 1000 0 ∧ 1000 ≤ demo.count.time :=
  ⟨(demo_a _ _).1, demo_sequences, by decide, by decide, by decide, by decide, arm5_pin,
    ⟨by decide, by simp [FirstDeadline, settings5, demo]⟩, by decide, by simp [FirstDeadline, settings5], by decide⟩

/-- The greatest time value as the count, and as the `when` of an ARM. -/
def lastMoment : State := atTime 1099511627775999999999 .set
def lateArm : ArmArg := { arm5 1 0 0 with when := BitVec.ofNat 72 (1099511627775 * 4294967296 + 999999999) }

theorem arm5_ok (basis : Byte) (hb : basis.toNat ≤ 1) (when : BitVec 72) (h0 : when.toNat % 4294967296 ≤ 999999999)
    (h1 : basis = 1 → when.toNat ≤ 1000000000000000) : ArmFieldsOk (arm5 1 basis when) := by
  refine ⟨(by decide : (1 : Byte).toNat ≤ 1), hb, (by decide : (2 : Byte).toNat ≤ 3), (by decide : (1 : Byte).toNat ≤ 1),
    fun _ => (by decide : 10000 ≤ (10000 : BitVec 64).toInt ∧ (10000 : BitVec 64).toInt ≤ 1000000000000000),
    fun _ => h0, h1, fun p a h => ?_⟩
  cases h
  decide

theorem test_witness_SlotCommandsRefused :
    (Takes .b 0x41 1 demo ∧ 48 ≤ (48 : Byte).toNat ∧ (5 : Byte).toNat = (5 : Slot).val ∧
      (∀ x, demo.timer 5 = some x → x.owner ≠ .b) ∧ (47 : Byte).toNat = (47 : Slot).val ∧ demo.timer 47 = none) ∧
    (Takes .a 0x42 1 demo ∧ demo.timer 5 = some timer5 ∧ timer5.owner = .a ∧ ¬ArmFieldsOk (arm5 2 0 0)) ∧
    (Takes .a 0x42 1 (atTime 9 .unset) ∧ ArmFieldsOk (arm5 1 0 0) ∧ (atTime 9 .unset).count.setState = .unset) ∧
    (ArmFieldsOk { arm5 1 1 0 with pinAction := some (3, 1) } ∧ demo.pin 3 = none) ∧
    Takes .a 0x42 1 lastMoment ∧ ArmFieldsOk lateArm ∧ lateArm.basis = 0 ∧ lateArm.kind = 1 ∧
    lastMoment.count.setState ≠ .unset ∧
    (let start := lateArm.when.toNat / 4294967296 * 1000000000 + lateArm.when.toNat % 4294967296;
      start ≤ lastMoment.count.time ∧ ∀ k, lastMoment.count.time < start + k * lateArm.period.toNat →
        1099511627776000000000 ≤ start + k * lateArm.period.toNat) := by
  refine ⟨⟨demo_b _ _, by decide, by decide, fun x hx => ?_, by decide, by decide⟩,
    ⟨(demo_a _ _).1, by decide, by decide, fun h => ?_⟩,
    ⟨takes_idle (by decide), arm5_ok 0 (by decide) 0 (by decide) (by decide), by decide⟩, ⟨?_, by decide⟩,
    takes_idle (by decide), arm5_ok 0 (by decide) _ (by decide) (by decide), by decide, by decide, by decide,
    by decide, fun k hk => ?_⟩
  · rw [demo_timer] at hx
    cases hx
    decide
  · have := h.1
    revert this
    decide
  · refine ⟨by decide, by decide, by decide, by decide, fun _ => by decide, by decide, by decide, fun p a h => ?_⟩
    cases h
    decide
  · have e : lastMoment.count.time = 1099511627775999999999 := rfl
    omega

/-- The count at the deadline of slot 5, and 1 ns before it. -/
theorem test_witness_ExpiryOfHead :
    ((atTime 2000 .set).running = true ∧ (deadlineQueue (atTime 2000 .set)).head? = some ⟨5, 2000, 0⟩ ∧
      2000 ≤ (atTime 2000 .set).count.time ∧ (atTime 2000 .set).timer 5 = some timer5 ∧
      timer5.kind = .periodic 10000 ∧ 1 ≤ 10000) ∧
    (deadlineQueue (atTime 1999 .set)).head? = some ⟨5, 2000, 0⟩ ∧ (atTime 1999 .set).count.time < 2000 := by decide

/-! ### Witnesses: notices and outputs -/

/-- A full queue: the notices of the timers in slots 0 to 15. -/
def full : State :=
  { demo with notices := { demo.notices with
      a := ⟨(List.range 16).map fun i => { fired with origin := some (.slot (Fin.ofNat 48 i)) }, none, 3, 65535⟩ } }

theorem full_queues : QueueInv full := by
  intro h
  cases h
  · exact ⟨by decide, by decide, by decide, by decide, by decide, by decide⟩
  · exact ⟨by decide, by decide, by decide, by decide, by decide, by decide⟩
  · exact ⟨by decide, by decide, by decide, by decide, by decide, by decide⟩

theorem test_witness_PostingToQueue :
    QueueInv demo ∧ demo.attached .c = false ∧ demo.attached .a = true ∧ fired ∈ (demo.box .a).queue ∧
    (∀ y, y ∈ (demo.box .a).queue → ¬(y.kind = NoticeKind.source ∧ y.origin = none)) ∧ (demo.box .a).queue.length < 16 ∧
    QueueInv full ∧ (full.box .a).queue.length = 16 ∧ ∀ y, y ∈ (full.box .a).queue → y.kind ≠ .source :=
  ⟨demo_queues, by decide, by decide, by decide, by decide, by decide, full_queues, by decide, by decide⟩

theorem test_witness_SystemNoticesAreKept :
    QueueInv demo ∧ SystemNoticeInv demo ∧ demo.attached .a = true ∧ SystemShape stepped ∧ stepped.cls = 4 ∧
    stepped ∈ (demo.box .a).queue :=
  ⟨demo_queues, demo_system_notices, by decide, .inl (by decide), by decide, by decide⟩

/-- `demo` with a notice in hand at host A. -/
def inHand : State :=
  { demo with notices := { demo.notices with a := ⟨[fired], some stepped, 3, 2⟩ } }

theorem test_witness_TakeAckAndPeek :
    (Takes .a 0x50 1 inHand ∧ (inHand.box .a).inHand = some stepped) ∧
    (Takes .b 0x50 1 demo ∧ (demo.box .b).inHand = none ∧ (demo.box .b).queue = []) ∧
    (Takes .a 0x50 1 demo ∧ (demo.box .a).inHand = none ∧ (demo.box .a).queue = stepped :: [fired]) ∧
    Takes .a 0x51 1 inHand ∧ Takes .b 0x51 1 demo ∧ Takes .b 0x52 1 demo :=
  ⟨⟨takes_idle (by decide), by decide⟩, ⟨demo_b _ _, by decide, by decide⟩, ⟨(demo_a _ _).1, by decide, by decide⟩,
    takes_idle (by decide), demo_b _ _, demo_b _ _⟩

theorem test_witness_SetThresholdJudgesLine : Takes .b 0x53 1 demo ∧ (5 : Byte).toNat ≤ 5 ∧ 5 < (6 : Byte).toNat :=
  ⟨demo_b _ _, by decide, by decide⟩

theorem test_witness_OutputsFollowState :
    (QueueInv demo ∧ demo.power.supply ≠ .absent ∧ demo.running = true ∧ demo.pin 1 = some pin1 ∧ demo.pin 0 = none) ∧
    QueueInv { demo with power := ⟨.absent, false, true⟩ } ∧ QueueInv { demo with power := ⟨.low, false, false⟩ } ∧
    State.running { demo with power := ⟨.low, false, false⟩ } = false :=
  ⟨⟨demo_queues, by decide, by decide, by decide, by decide⟩, demo_queues, demo_queues, by decide⟩

theorem test_witness_BindAndUnbindPin :
    (Takes .b 0x60 1 demo ∧ 4 ≤ (4 : Byte).toNat ∧ 2 ≤ (2 : Byte).toNat ∧ (3 : Byte).toNat = (3 : PinId).val ∧
      (1 : Byte).toNat ≤ 1 ∧ (1 : BitVec 16) ≠ 0 ∧ demo.pin 1 = some pin1 ∧ pin1.owner ≠ .b ∧ demo.pin 3 = none) ∧
    (Takes .a 0x61 1 demo ∧ pin1.owner = .a ∧
      (allSlots.filter fun i => (demo.timer i).any fun x =>
        decide (x.owner = .a) && x.armed.isSome && x.action.any fun u => u.pin = 1) = [5]) ∧
    Takes .a 0x61 1 (withTimer { timer5 with armed := none }) ∧
    (allSlots.filter fun i => ((withTimer { timer5 with armed := none }).timer i).any fun x =>
      decide (x.owner = .a) && x.armed.isSome && x.action.any fun u => u.pin = 1) = [] :=
  ⟨⟨demo_b _ _, by decide, by decide, by decide, by decide, by decide, by decide, by decide, by decide⟩,
    ⟨(demo_a _ _).1, by decide, by decide⟩, takes_idle (by decide), by decide⟩

/-- EVO1 with a pulse that ends at 2,000 ns. -/
def pulsing (time : Nat) : State :=
  { atTime time .set with pins := (Quad.const none).set 1 (some { pin1 with level := .high, pulseEnd := some 2000 }) }

theorem test_witness_DrivePinAndPulseEnd :
    (Takes .a 0x62 1 demo ∧ 4 ≤ (4 : Byte).toNat ∧ (1 : Byte).toNat = (1 : PinId).val ∧ demo.pin 1 = some pin1 ∧
      pin1.owner = .a ∧ 4 < (5 : Byte).toNat ∧ Takes .b 0x62 1 demo ∧ pin1.owner ≠ .b) ∧
    ((pulsing 2000).running = true ∧ (pulsing 2000).pin 1 = some { pin1 with level := .high, pulseEnd := some 2000 } ∧
      2000 ≤ (pulsing 2000).count.time) ∧ (pulsing 1999).count.time < 2000 :=
  ⟨⟨(demo_a _ _).1, by decide, by decide, by decide, by decide, by decide, demo_b _ _, by decide⟩, by decide, by decide⟩

theorem test_witness_StatusReads :
    (Takes .a 0x44 1 demo ∧ (5 : Byte).toNat = (5 : Slot).val ∧ demo.timer 5 = some timer5 ∧ timer5.owner = .a) ∧
    (Takes .b 0x63 1 demo ∧ 4 ≤ (4 : Byte).toNat ∧ (1 : Byte).toNat = (1 : PinId).val ∧ demo.pin 1 = some pin1 ∧
      demo.pin 3 = none) ∧ Takes .b 0x22 1 demo :=
  ⟨⟨(demo_a _ _).1, by decide, by decide, by decide⟩, ⟨demo_b _ _, by decide, by decide, by decide, by decide⟩,
    demo_b _ _⟩

/-! ### Witnesses: time authority -/

/-- Nobody holds the authority. -/
def free : State := { demo with auth := ⟨none, []⟩ }

theorem test_witness_ClaimAsksForAuthority :
    (Takes .b 0x30 1 free ∧ free.auth.holding = none ∧ 600 < (601 : BitVec 16).toNat ∧ 1 ≤ (600 : BitVec 16).toNat ∧
      (600 : BitVec 16).toNat ≤ 600) ∧
    (Takes .a 0x30 1 demo ∧ holder demo = some .a) ∧
    (Takes .b 0x30 1 demo ∧ demo.auth.waiting = [] ++ ⟨.b, 20⟩ :: []) ∧
    Takes .b 0x30 1 { demo with auth := ⟨some ⟨.a, 10, 0⟩, []⟩ } ∧
    ∀ w ∈ ({ demo with auth := ⟨some ⟨.a, 10, 0⟩, []⟩ } : State).auth.waiting, w.host ≠ .b :=
  ⟨⟨takes_idle (by decide), by decide, by decide, by decide, by decide⟩, demo_a _ _, ⟨demo_b _ _, by decide⟩,
    takes_idle (by decide), by decide⟩

theorem test_witness_ReleaseHandsOver :
    (Takes .a 0x31 1 demo ∧ holder demo = some .a ∧ ∀ w, demo.sup.wait = some w → w.host ≠ .a) ∧
    Takes .b 0x31 1 demo ∧ holder demo ≠ some .b :=
  ⟨⟨(demo_a _ _).1, (demo_a 0 0).2, fun _ h => by cases h⟩, demo_b _ _, by decide⟩

theorem test_witness_WithdrawAndAuthStatus :
    (Takes .b 0x32 1 demo ∧ demo.auth.waiting = [] ++ ⟨.b, 20⟩ :: [] ∧ ∀ w ∈ ([] ++ [] : List Waiter), w.host ≠ .b) ∧
    (Takes .a 0x32 1 demo ∧ ∀ w ∈ demo.auth.waiting, w.host ≠ .a) ∧ Takes .a 0x33 1 demo :=
  ⟨⟨demo_b _ _, by decide, by decide⟩, ⟨(demo_a _ _).1, by decide⟩, (demo_a _ _).1⟩

/-- The lease of host A at its end, 10 s, and the same while host A waits. -/
def leaseEnd (elapsed : Nat) (s : State) : State := { s with auth := ⟨some ⟨.a, 10, elapsed⟩, [⟨.b, 20⟩]⟩ }

theorem test_witness_LeaseExpiryHandsOver :
    ((leaseEnd 42949672960000000000 demo).running = true ∧ AuthInv (leaseEnd 42949672960000000000 demo) ∧
      10 * 1000000000 * 4294967296 ≤ 42949672960000000000) ∧ 42949672959999999999 < 10 * 1000000000 * 4294967296 ∧
    (AuthInv free ∧ free.auth.holding = none) ∧
    (AuthInv (leaseEnd 42949672960000000000 waiting) ∧
      (leaseEnd 42949672960000000000 waiting).sup.wait = some ⟨.a, 7⟩ ∧
      ((leaseEnd 42949672960000000000 waiting).port .a).phase = .working 0x21 9) := by
  have ok : ∀ s : State, s.attached .a = true → s.attached .b = true →
      AuthInv (leaseEnd 42949672960000000000 s) := by
    intro s ha hb
    refine ⟨fun x hx => ?_, by simp [leaseEnd], by simp [leaseEnd], fun w hw => ?_, fun h => by cases h⟩
    · cases hx
      exact ⟨ha, by decide, by decide⟩
    · have : w = ⟨.b, 20⟩ := by simpa [leaseEnd] using hw
      subst this
      exact ⟨hb, by simp [holder, leaseEnd], by decide, by decide⟩
  refine ⟨⟨by decide, ok _ (by decide) (by decide), by decide⟩, by decide, ⟨⟨fun x hx => ?_, ?_, ?_, ?_, ?_⟩, rfl⟩,
    ok _ (by decide) (by decide), rfl, rfl⟩
  · cases hx
  all_goals decide

/-! ### Witnesses: sources -/

/-- `demo` under the list (XO, EXT, RC), XO and EXT in the states given, `x` selected. -/
def sources (xo ext : SourceState) (x : Source) : State :=
  { demo with sup := { demo.sup with list := [.xo, .ext, .rc], xo := xo, ext := ext, selected := x } }

theorem test_witness_CyclesAndEdges :
    (sources (.window 68719476735999999 8589934591999) (.qualified (.running 0) 8589934592000) .rc).running = true ∧
    ({ demo with power := ⟨.powerUp 8589934591999999, false, false⟩ } : State).power.supply = .powerUp 8589934591999999 := by
  decide

/-- The loss of the selected source, of another one, and of the head that host A waits for. -/
theorem test_witness_SourceLossFailsOver :
    (let s := sources (.qualified .elapsed 8589934592000) (.qualified (.running 9) 5) .xo;
      s.running = true ∧ (s.watched .xo).sinceEdge = some 8589934592000 ∧ 2000 * 4294967296 ≤ 8589934592000 ∧
      s.sup.selected = Watched.source .xo ∧ s.sup.wait = none ∧ (s.watched .ext).sinceEdge = some 5 ∧
      5 < 2000 * 4294967296) ∧
    (let s := sources (.qualified .elapsed 5) (.window 9 8589934592000) .xo;
      (s.watched .ext).sinceEdge = some 8589934592000 ∧ s.sup.selected ≠ Watched.source .ext ∧ s.sup.wait = none) ∧
    (let s := { waiting with sup := { waiting.sup with ext := .window 9 8589934592000 } };
      s.running = true ∧ (s.watched .ext).sinceEdge = some 8589934592000 ∧ s.sup.selected ≠ Watched.source .ext ∧
      s.sup.list.head? = some (Watched.source .ext) ∧ s.sup.wait = some ⟨.a, 7⟩ ∧
      (s.port .a).phase = .working 0x21 9) := by decide

theorem test_witness_QualificationSelects :
    (let s := { waiting with sup := { waiting.sup with ext := .window 68719476736000000 3 } };
      s.running = true ∧ s.watched .ext = .window 68719476736000000 3 ∧ 16000000 * 4294967296 ≤ 68719476736000000 ∧
      s.sup.wait = some ⟨.a, 7⟩ ∧ s.sup.list.head? = some (Watched.source .ext) ∧
      s.sup.selected ≠ Watched.source .ext ∧ (s.port .a).phase = .working 0x21 9) ∧
    (let s := { sources (.window 68719476736000000 3) (.window 68719476735999999 3) .rc with count := demo.count };
      s.sup.wait = none ∧ s.watched .xo = .window 68719476736000000 3 ∧
      s.watched .ext = .window 68719476735999999 3 ∧ 68719476735999999 < 16000000 * 4294967296) := by decide

theorem test_witness_HoldOffEndAndWaitTimeout :
    (let s := sources (.qualified (.running 17179869184000000000) 3) (.qualified (.running 17179869183999999999) 3) .rc;
      s.running = true ∧ s.watched .xo = .qualified (.running 17179869184000000000) 3 ∧
      4000000000 * 4294967296 ≤ 17179869184000000000 ∧
      s.watched .ext = .qualified (.running 17179869183999999999) 3 ∧
      17179869183999999999 < 4000000000 * 4294967296) ∧
    (let s := { waiting with sup := { waiting.sup with wait := some ⟨.a, 858993459200000000⟩ } };
      s.running = true ∧ s.sup.wait = some ⟨.a, 858993459200000000⟩ ∧
      200000000 * 4294967296 ≤ 858993459200000000 ∧ (s.port .a).phase = .working 0x21 9 ∧
      s.sup.list.head? = some .ext) := by decide

theorem test_witness_SetTrimWritesEntry :
    TakesAsHolder .a 0x20 1 demo ∧ 3 < (4 : Byte).toNat ∧ 50000000 < (50000001 : BitVec 32).toInt ∧
    (2 : Byte) = sourceCode .ext ∧ -50000000 ≤ (50000000 : BitVec 32).toInt ∧ (50000000 : BitVec 32).toInt ≤ 50000000 :=
  ⟨demo_a _ _, by decide, by decide, by decide, by decide, by decide⟩

/-- The entries of a list as received are those of `l`. -/
def entriesAre (v : ListArg) (l : List Source) : Bool :=
  l.length = v.count.toNat ∧ l.map sourceCode = [v.first, v.second, v.third].take v.count.toNat ∧ l.Nodup

/-- RANGE, and the five cases of R34 in their order. -/
theorem test_witness_SetSourcesStoresAndSelects :
    TakesAsHolder .a 0x21 1 demo ∧ 3 < (4 : Byte).toNat ∧ ¬([1, 2, 1].take 3 : List Byte).Nodup ∧
    (∃ b ∈ ([1, 4, 0].take 2 : List Byte), b = 0 ∨ 3 < b.toNat) ∧
    (entriesAre ⟨2, 3, 1, 0⟩ [.rc, .xo] ∧ demo.sup.selected = .rc) ∧
    (let s := sources (.qualified .elapsed 5) .off .rc;
      TakesAsHolder .a 0x21 1 s ∧ entriesAre ⟨1, 1, 0, 0⟩ [.xo] ∧ Source.xo ≠ s.sup.selected ∧
      (stateUnder [.xo] s .xo).isQualified = true) ∧
    (let s := sources (.qualified .elapsed 5) .off .xo;
      TakesAsHolder .a 0x21 1 s ∧ entriesAre ⟨1, 2, 0, 0⟩ [.ext] ∧
      (stateUnder [.ext] s .ext).isQualified = false ∧ s.sup.selected ∉ [Source.ext, .rc] ∧
      [Source.ext, .rc].find? (fun y => (stateUnder [.ext] s y).isQualified) = some .rc) ∧
    (let s := sources (.qualified .elapsed 5) .off .rc;
      entriesAre ⟨3, 2, 1, 3⟩ [.ext, .xo, .rc] ∧ (stateUnder [.ext, .xo, .rc] s .ext).isQualified = false ∧
      s.sup.selected ∈ [Source.ext, .xo, .rc] ∧
      [Source.ext, .xo, .rc].find? (fun y => decide ([Source.ext, .xo, .rc].idxOf y <
        [Source.ext, .xo, .rc].idxOf s.sup.selected) && (stateUnder [.ext, .xo, .rc] s y).holdOffElapsed) = some .xo) ∧
    entriesAre ⟨2, 2, 3, 9⟩ [.ext, .rc] ∧
    [Source.ext, .rc].find? (fun y => decide ([Source.ext, .rc].idxOf y <
      [Source.ext, .rc].idxOf demo.sup.selected) && (stateUnder [.ext, .rc] demo y).holdOffElapsed) = none :=
  ⟨demo_a _ _, by decide, by decide, by decide, by decide, ⟨holds_idle (by decide) (by decide), by decide⟩,
    ⟨holds_idle (by decide) (by decide), by decide⟩, by decide, by decide, by decide⟩

/-! ### Witnesses: captures -/

/-- An accepted edge of input `i` yet to be taken, with the log as given. -/
def edgeOn (i : CapId) (log : List CapRecord) : State :=
  { demo with cap := { demo.cap with log := log, seen := [⟨i, .rising, 990⟩] } }

theorem test_witness_CaptureMakesRecord :
    demo.running = true ∧ demo.cap.seen = [] ∧
    ((edgeOn 0 []).cap.seen = ⟨0, .rising, 990⟩ :: [] ∧ ∀ h, ((edgeOn 0 []).input 0).subscribers.get h = none) ∧
    (edgeOn 2 (List.replicate 32 record2)).cap.seen = ⟨2, .rising, 990⟩ :: [] ∧
    ((edgeOn 2 (List.replicate 32 record2)).input 2).subscribers.get .b ≠ none ∧
    (edgeOn 2 (List.replicate 32 record2)).cap.log.length = 32 :=
  ⟨by decide, by decide, ⟨by decide, fun h => by cases h <;> decide⟩, by decide, by decide, by decide⟩

theorem test_witness_SetEdgesAndSubscribe :
    (TakesAsHolder .a 0x70 1 demo ∧ 4 ≤ (4 : Byte).toNat ∧ (3 : Byte).toNat = (3 : CapId).val ∧
      (3 : Byte) = selectionCode .both) ∧
    Takes .b 0x71 1 demo ∧ (2 : Byte).toNat = (2 : CapId).val ∧ (3 : Byte).toNat ≤ 3 :=
  ⟨⟨demo_a _ _, by decide, by decide, by decide⟩, demo_b _ _, by decide, by decide⟩

theorem test_witness_UnsubscribeAndReadCapture :
    (Takes .b 0x72 1 demo ∧ 4 ≤ (4 : Byte).toNat ∧ (2 : Byte).toNat = (2 : CapId).val ∧
      (demo.input 2).subscribers.get .b ≠ none ∧ (∀ r ∈ demo.cap.log, (!(r.owed.a || r.owed.b || r.owed.c)) = false) ∧
      (demo.input 3).subscribers.get .b = none) ∧
    (Takes .b 0x73 1 demo ∧ 4 ≤ (0xFE : Byte).toNat ∧ (0xFE : Byte) ≠ 0xFF ∧ (3 : Byte).toNat < 4 ∧
      demo.cap.log = [] ++ record2 :: [] ∧ (record2.owed.get .b && (2 : Byte).toNat = record2.input.val) = true) ∧
    ∀ r ∈ demo.cap.log, (r.owed.get .b && (3 : Byte).toNat = r.input.val) = false :=
  ⟨⟨demo_b _ _, by decide, by decide, by decide, by decide, by decide⟩,
    ⟨demo_b _ _, by decide, by decide, by decide, by decide, by decide⟩, by decide⟩

/-! ### Witnesses: lines and power -/

/-- `demo` with another power. -/
def powered (supply : Supply) (low : Bool) : State := { demo with power := ⟨supply, low, false⟩ }

theorem test_witness_HostResetLine :
    ((demo.port .a).hrst = false ∧ demo.running = true ∧ demo.attached .a = true ∧ demo.attached .c = false ∧
      (demo.port .c).hrst = false) ∧
    (((powered .low false).port .a).hrst = false ∧ (powered .low false).running = false) ∧
    (({ demo with ports := { demo.ports with a := { idlePort with hrst := true } } } : State).port .a).hrst = true := by
  decide

theorem test_witness_MainResetCondition :
    (powered .absent false).power.supply = .absent ∧ demo.power.supply = .operating ∧
    (powered (.powerUp 5) false).power.supply = .powerUp 5 ∧ (powered .low false).power.supply = .low ∧
    (powered .operating true).running = false := by decide

theorem test_witness_MainResetRestores :
    demo.retained = some ⟨0, 0, true, ⟨0, 0, 0⟩, [.xo, .rc]⟩ ∧
    (powered (.powerUp 8589934592000000) false).power = ⟨.powerUp 8589934592000000, false, false⟩ ∧
    2000000 * 4294967296 ≤ 8589934592000000 ∧ 8589934591999999 < 2000000 * 4294967296 ∧
    (powered .operating true).power.resetLow = true ∧ (powered .low true).power.supply ≠ .operating := by decide

theorem test_witness_RetainedDomain :
    demo.power.supply ≠ .absent ∧ demo.retained = some ⟨0, 0, true, ⟨0, 0, 0⟩, [.xo, .rc]⟩ ∧
    ({ demo with retained := none } : State).retained = none ∧ (powered .absent false).power.supply = .absent ∧
    (powered .low false).power.supply = .low := by decide

/-! ### Worked examples of the spec -/

/-- R3: 1 s 999,999,999 ns and a full residue, plus the 62.5 ns of RC, make 2 s 62 ns. -/
theorem test_advance_carries :
    let s := { demo with count := ⟨1999999999, 2147483648, .set, 0, 0⟩ };
    (advance noLevels s).count = ⟨2000000062, 0, .set, 0, 0⟩ := by decide

/-- R6, R11: the first set makes the count SET with residue 0. -/
theorem test_first_set : (firstSet 5 (atTime 1000 .unset)).count = ⟨5, 0, .set, 0, 0⟩ := by decide

/-- R49, R58: a reached deadline that the first set moves below 0 s 0 ns stays reached, with nothing remaining. -/
theorem test_first_set_reached :
    ((firstSet 5 (atTime 9000 .unset)).timer 5).map (fun x => x.armed.map fun a => (a.deadline, remaining a.deadline 5)) =
      some (some (-6995, 0)) := by decide

/-- R149, R178: a first byte of 0x5A makes a FETCH, also in a row POLL. -/
theorem test_kind : (kindOf 0x5A, kindOf 0xA5, kindOf 0x00) = (.fetch, .send, .poll) := by decide

/-- R169, R173, R182: VMAIN risen from absence stands below 2.7 V, where the retained state can be lost; the cold start
that follows leaves the count UNSET at 0. -/
theorem test_cold_start :
    (retainedRise { atTime 9 .set with retained := none, power := ⟨.low, false, false⟩ }).count = ⟨0, 0, .unset, 0, 0⟩ := by
  decide

/-- R173, R176, R38: after a loss of VMAIN the XO oscillator stays stopped while VMAIN is back at 2.7 V, and the main
reset powers it. -/
theorem test_absence_xo :
    let returned := { demo with power := ⟨.powerUp 8589934592000000, false, true⟩ }
    xoPowered returned = false ∧ xoPowered (mainReset returned) = true := by decide

/-- R30: XO, selected, taken OFF by a store while RC is still being left: the bridge is XO's, and RC gives the next
advance as the source selected. -/
theorem test_store_bridge :
    (let s := sources (.qualified .elapsed 4294967296) .off .xo;
      let t := (setSourcesAt .a ⟨1, 3, 0, 0⟩ noLevels { s with sup := { s.sup with leaving := some .rc } }).1;
      (t.count.time, t.sup.leaving, t.sup.selected)) = (1001, none, .rc) := by decide

/-- R150, R178: marker, notice waiting, IRQ asserted (class 4 at threshold 3), attached, IDLE. -/
theorem test_status_byte : statusByte demo .a = 0x9C := by decide

/-- R128: PULSE of 10 µs at 1,000 ns ends at 11,000 ns. -/
theorem test_pulse : (pin1.apply .pulse .drivePin 1000).pulseEnd = some 11000 := by decide

/-- R92: a class 4 notice evicts the last notice of a full queue, and the drop count saturates. -/
theorem test_evict :
    (((post .a stepped full).box .a).queue.length, ((post .a stepped full).box .a).drops,
      ((post .a stepped full).box .a).queue.head?) = (16, 65535, some stepped) := by decide

/-- R135, R136: with EDGES both, a change of level is seen and accepted. -/
theorem test_edge : input2.acceptedEdge .high = some .rising := by decide

/-! ### Answers of a command, worked out from R179 and R181 -/

/-- The answer port `h` of `demo` holds after a request. -/
def answerOf (h : HostId) (r : Request) : PortPhase := ((requestRow h 1 r noLevels demo).port h).phase

/-- R8: 0 s 1,000 ns (0x3E8), SET, holdover since RC is not the head. -/
theorem test_read_time :
    answerOf .b .readTime = .answered ⟨0x10, 1, .ok, [0, 0, 0, 0, 0, 0, 0, 0x03, 0xE8, 2, 1]⟩ := by decide

/-- R45: slot 0; A then owns 2, and 46 slots are FREE. -/
theorem test_alloc : answerOf .a .alloc = .answered ⟨0x40, 1, .ok, [0, 2, 46]⟩ := by decide

/-- R48, R52: ARMED at 1,000 + 256 ns, not fired, nothing missed, the old fire count 1, not LATE. -/
theorem test_arm :
    answerOf .a (.arm (arm5 0 1 256)) =
      .answered ⟨0x42, 1, .ok, [1, 2, 0, 0, 0, 0, 0, 0, 0, 0x04, 0xE8, 0, 0, 0, 0, 1, 0]⟩ := by decide

/-- R108: B already waits, first in the list, for the 20 s it asked for. -/
theorem test_claim_again : answerOf .b (.claim 300) = .answered ⟨0x30, 1, .queued, [1, 1, 0, 20]⟩ := by decide

/-- R47 step 7: EVO0 is unbound. -/
theorem test_arm_pin_taken :
    answerOf .a (.arm { arm5 0 1 256 with pinAction := some (0, 1) }) = .answered ⟨0x42, 1, .pinTaken, []⟩ := by decide

/-- R125: TOGGLE from low to high, no pulse ended, nothing of a pulse. -/
theorem test_toggle :
    answerOf .a (.drivePin 1 3) = .answered ⟨0x62, 1, .ok, [0, 0, 1, 0, 0, 0, 0, 0, 0, 0, 0, 0, 0, 0]⟩ := by decide

/-- R144: serial 0, CAP2, rising, 0 s 800 ns (0x320), RC, HOLDOVER; nothing left; the gaps of CAP2 are 3. -/
theorem test_read_capture :
    answerOf .b (.readCapture 2) =
      .answered ⟨0x73, 1, .ok, [0, 0, 2, 1, 0, 0, 0, 0, 0, 0, 0, 0x03, 0x20, 3, 2, 0, 0, 4, 0, 0, 3, 0]⟩ := by decide

/-- R13, R14: a step back by 1,000 ns to 0; the slew is cancelled. -/
theorem test_step_back :
    (requestRow .a 1 (.step ⟨1, 0, 1000⟩) noLevels demo).count = ⟨0, 0, .set, 0, 0⟩ := by decide +kernel

end Sys2Proof.Tests
end

section
/-! The range of a time value (R1, R4). -/

namespace Sys2Proof.Machine

/-- A time value and its residue in range (R1). -/
def TimeInRange (time residue : Nat) : Prop := time < 1099511627776000000000 ∧ residue < 4294967296

/-- The greatest time value, at which the count is held, with its range (R4). -/
def greatestTime : {t : Nat // TimeInRange t 0} := ⟨maxTime, by decide +kernel, by decide +kernel⟩

end Sys2Proof.Machine
end

section
/-! Frames: which parts of the state each command and each event of the main domain can change. -/

namespace Sys2Proof.Machine

/-! ### The calculus of frames -/

theorem OnlyChanges.mono {ps qs : List Part} {s t : State} (h : OnlyChanges ps s t) (hsub : ps ⊆ qs) :
    OnlyChanges qs s t := by
  obtain ⟨h1, h2, h3, h4, h5, h6, h7, h8, h9, h10, h11⟩ := h
  exact ⟨fun c => h1 (c <| hsub ·), fun c => h2 (c <| hsub ·), fun c => h3 (c <| hsub ·), fun c => h4 (c <| hsub ·),
    fun c => h5 (c <| hsub ·), fun c => h6 (c <| hsub ·), fun c => h7 (c <| hsub ·), fun c => h8 (c <| hsub ·),
    fun c => h9 (c <| hsub ·), fun c => h10 (c <| hsub ·), h11⟩

theorem OnlyChanges.trans {ps : List Part} {s t u : State} (h : OnlyChanges ps s t) (k : OnlyChanges ps t u) :
    OnlyChanges ps s u := by
  obtain ⟨h1, h2, h3, h4, h5, h6, h7, h8, h9, h10, h11⟩ := h
  obtain ⟨k1, k2, k3, k4, k5, k6, k7, k8, k9, k10, k11⟩ := k
  exact ⟨fun c => (k1 c).trans (h1 c), fun c => (k2 c).trans (h2 c), fun c => (k3 c).trans (h3 c),
    fun c => (k4 c).trans (h4 c), fun c => (k5 c).trans (h5 c), fun c => (k6 c).trans (h6 c),
    fun c => (k7 c).trans (h7 c), fun c => (k8 c).trans (h8 c), fun c => (k9 c).trans (h9 c),
    fun c => (k10 c).trans (h10 c), k11.trans h11⟩

/-- A frame kept by each round of a fold is kept by the fold. -/
theorem OnlyChanges.foldl {α : Type} {ps : List Part} {f : State → α → State}
    (hf : ∀ s x, OnlyChanges ps s (f s x)) (l : List α) (s : State) : OnlyChanges ps s (l.foldl f s) := by
  induction l generalizing s with
  | nil => exact OnlyChanges.refl ps s
  | cons x l ih => exact (hf s x).trans (ih (f s x))

/-! ### The named updates -/

theorem setTimer_frame (i : Slot) (x : Option Timer) (s : State) : OnlyChanges [.pool] s (s.setTimer i x) := by
  simp [OnlyChanges]

theorem setBox_frame (h : HostId) (x : NoticeBox) (s : State) : OnlyChanges [.notices] s (s.setBox h x) := by
  simp [OnlyChanges]

theorem setPin_frame (p : PinId) (x : Option PinRecord) (s : State) : OnlyChanges [.pins] s (s.setPin p x) := by
  simp [OnlyChanges]

theorem setInput_frame (i : CapId) (x : CapInput) (s : State) : OnlyChanges [.cap] s (s.setInput i x) := by
  simp [OnlyChanges]

theorem setPort_frame (h : HostId) (x : Port) (s : State) : OnlyChanges [.ports] s (s.setPort h x) := by
  simp [OnlyChanges]

theorem withSup_frame (x : Supervisor) (s : State) : OnlyChanges [.sup] s { s with sup := x } := by
  simp [OnlyChanges]

theorem withPower_frame (x : Power) (s : State) : OnlyChanges [.power] s { s with power := x } := by
  simp [OnlyChanges]

theorem setWatched_frame (w : Watched) (x : SourceState) (s : State) : OnlyChanges [.sup] s (s.setWatched w x) := by
  cases w <;> simp [OnlyChanges, State.setWatched]

theorem post_frame (h : HostId) (n : Notice) (s : State) : OnlyChanges [.notices] s (post h n s) := by
  simp [OnlyChanges]

theorem postAll_frame (n : Notice) (s : State) : OnlyChanges [.notices] s (postAll n s) := by
  simp [OnlyChanges]

theorem removeTimerNotice_frame (h : HostId) (i : Slot) (s : State) :
    OnlyChanges [.notices] s (removeTimerNotice h i s) := setBox_frame _ _ _

theorem applyAction_frame (p : PinId) (a : PinAction) (o : ActionOrigin) (s : State) :
    OnlyChanges [.pins] s (applyAction p a o s) := by
  simp [OnlyChanges]

theorem movePulseEnds_frame (f : Int → Int) (s : State) : OnlyChanges [.pins] s (movePulseEnds f s) := by
  simp [OnlyChanges]

theorem moveElapsed_frame (f : Int → Int) (s : State) : OnlyChanges [.pool] s (moveElapsed f s) := by
  simp [OnlyChanges]

theorem moveSeen_frame (f : Int → Int) (s : State) : OnlyChanges [.cap] s (moveSeen f s) := by
  simp [OnlyChanges, moveSeen]

theorem switchTo_frame (x : Source) (s : State) : OnlyChanges [.sup] s (switchTo x s) := by simp [OnlyChanges]

/-! ### Expiries, pulse ends and captures -/

theorem expire_frame (i : Slot) (late : Bool) (now : Nat) (s : State) :
    OnlyChanges [.pool, .pins, .notices] s (expire i late now s) := by
  simp [OnlyChanges]

theorem expireReached_onlyChanges (n : Nat) (late : Bool) (now : Nat) (s : State) :
    OnlyChanges [.pool, .pins, .notices] s (expireReached n late now s) := by
  obtain ⟨h1, h2, h3, h4, h5, h6, h7, h8⟩ := expireReached_frame late now n s
  exact ⟨fun _ => h1, fun _ => h2, by simp, by simp, fun _ => h3, by simp, fun _ => h4, fun _ => h5, fun _ => h6,
    fun _ => h7, h8⟩

theorem stepRecognition_frame (d : Int) (before : Nat) (s : State) :
    OnlyChanges [.pool, .pins, .notices] s (stepRecognition d before s) := by
  have moved := (expireReached_onlyChanges 48 false before s).trans
    ((moveElapsed_frame (· + d) _).mono (by simp))
  unfold stepRecognition
  dsimp only
  split
  · exact moved.trans (expireReached_onlyChanges 48 true _ _)
  · exact moved

theorem endPulse_frame (p : PinId) (s : State) : OnlyChanges [.pins] s (endPulse p s) := by
  unfold endPulse
  split
  · split
    · split
      · exact setPin_frame _ _ _
      · exact OnlyChanges.refl _ _
    · exact OnlyChanges.refl _ _
  · exact OnlyChanges.refl _ _

theorem raiseGap_frame (i : CapId) (h : HostId) (s : State) : OnlyChanges [.cap] s (raiseGap i h s) :=
  setInput_frame _ _ _

theorem makeRoom_frame (s : State) : OnlyChanges [.cap] s (makeRoom s) := by
  unfold makeRoom
  split
  · exact OnlyChanges.refl _ _
  · split
    · exact OnlyChanges.refl _ _
    · exact OnlyChanges.trans (by simp [OnlyChanges]) (OnlyChanges.foldl (fun s h => raiseGap_frame _ h s) _ _)

theorem makeRecord_frame (e : SeenEdge) (s : State) : OnlyChanges [.cap] s (makeRecord e s) := by
  simp [OnlyChanges, makeRecord]

theorem takeCapture_frame (s : State) : OnlyChanges [.cap, .notices] s (takeCapture s) := by
  unfold takeCapture
  split
  · exact OnlyChanges.refl _ _
  · next e rest _ =>
    have taken : OnlyChanges [.cap, .notices] s { s with cap := { s.cap with seen := rest } } := by
      simp [OnlyChanges]
    dsimp only
    split
    · exact taken
    · have recorded : ∀ u, OnlyChanges [.cap, .notices] u (makeRecord e (makeRoom u)) := fun u =>
        ((makeRoom_frame u).trans (makeRecord_frame e _)).mono (by simp)
      exact (taken.trans (recorded _)).trans
        (OnlyChanges.foldl (fun s h => (post_frame h _ s).mono (by simp)) _ _)

/-! ### The advance -/

theorem runLease_frame (m : Nat) (s : State) : OnlyChanges [.auth] s (runLease m s) := by simp [OnlyChanges]

theorem sampleInputs_frame (m : Nat) (levels : Quad Level) (s : State) :
    OnlyChanges [.cap] s (sampleInputs m levels s) := by
  simp [OnlyChanges]

/-! ### The arbiter, the end of a wait and the teardown -/

theorem leaveWaiting_frame (h : HostId) (s : State) : OnlyChanges [.auth] s (leaveWaiting h s) := by
  simp [OnlyChanges, leaveWaiting]

/-- What may end a wait leaves, whether or not it does. -/
theorem endWaitIf_frame (p : Prop) [Decidable p] (r : Option Reply) (s : State) :
    OnlyChanges [.sup, .ports] s (if p then endWait r s else s) := by
  split
  · exact (endWait_frame r s).1
  · exact OnlyChanges.refl _ _

theorem handOver_frame (old : HostId) (torn : Bool) (s : State) :
    OnlyChanges [.sup, .auth, .notices, .ports] s (handOver old torn s) := by
  unfold handOver
  refine OnlyChanges.trans ?_ ((endWaitIf_frame _ _ _).mono (by simp))
  split
  · simp [OnlyChanges]
  · exact OnlyChanges.trans (by simp [OnlyChanges]) ((grant_frame _ _ _).mono (by simp))

theorem releaseAuthority_frame (h : HostId) (s : State) :
    OnlyChanges [.sup, .auth, .notices, .ports] s (releaseAuthority h s) := by
  have left : OnlyChanges [.sup, .auth, .notices, .ports] s (leaveWaiting h s) :=
    (leaveWaiting_frame h s).mono (by simp)
  unfold releaseAuthority
  refine OnlyChanges.trans ?_ ((endWaitIf_frame _ _ _).mono (by simp))
  split
  · exact left.trans (handOver_frame _ _ _)
  · exact left

theorem removeSubscriber_frame (h : HostId) (i : CapId) (s : State) :
    OnlyChanges [.cap] s (removeSubscriber h i s) := by
  simp [OnlyChanges, removeSubscriber]

theorem teardown_frame (h : HostId) (s : State) :
    OnlyChanges [.sup, .pool, .notices, .auth, .pins, .cap, .ports] s (teardown h s) := by
  have ended : OnlyChanges [.sup, .pool, .notices, .auth, .pins, .cap, .ports] s
      ((s.setPort h { s.port h with attached := false }).setBox h .initial) := by simp [OnlyChanges]
  have freed : ∀ s, OnlyChanges [.sup, .pool, .notices, .auth, .pins, .cap, .ports] s
      (unbindAll h (freeAll h s)) := fun s => by simp [OnlyChanges, unbindAll, freeAll]
  have removed : ∀ s, OnlyChanges [.cap] s (removeFromAll h s) :=
    OnlyChanges.foldl (fun s i => removeSubscriber_frame h i s) _
  exact ended.trans (((releaseAuthority_frame h _).mono (by simp)).trans
    ((freed _).trans ((removed _).mono (by simp))))

theorem expireLease_frame (s : State) : OnlyChanges [.sup, .auth, .notices, .ports] s (expireLease s) := by
  unfold expireLease
  split
  · split
    · exact ((post_frame _ _ _).mono (by simp)).trans (handOver_frame _ _ _)
    · exact OnlyChanges.refl _ _
  · exact OnlyChanges.refl _ _

/-! ### The supervisor -/

theorem superviseCycle_frame (s : State) : OnlyChanges [.sup] s (superviseCycle s) := by
  simp [OnlyChanges, superviseCycle]

theorem selectWithNotice_frame (x : Source) (cause : Cause) (stamp : Nat) (s : State) :
    OnlyChanges [.sup, .notices] s (selectWithNotice x cause stamp s) := by
  unfold selectWithNotice
  split
  · exact OnlyChanges.refl _ _
  · exact ((switchTo_frame x s).mono (by simp)).trans ((postAll_frame _ _).mono (by simp))

theorem qualify_frame (w : Watched) (s : State) : OnlyChanges [.sup, .notices, .ports] s (qualify w s) := by
  have marked : ∀ x, OnlyChanges [.sup, .notices, .ports] s (s.setWatched w x) := fun x =>
    (setWatched_frame w x s).mono (by simp)
  unfold qualify
  split
  · split
    · dsimp only
      split
      · exact (marked _).trans (((selectWithNotice_frame _ _ _ _).mono (by simp)).trans
          ((endWait_frame _ _).1.mono (by simp)))
      · split
        · exact (marked _).trans ((switchTo_frame _ _).mono (by simp))
        · exact marked _
    · exact OnlyChanges.refl _ _
  · exact OnlyChanges.refl _ _

theorem endHoldOff_frame (w : Watched) (s : State) : OnlyChanges [.sup, .notices] s (endHoldOff w s) := by
  have marked : ∀ x, OnlyChanges [.sup, .notices] s (s.setWatched w x) := fun x =>
    (setWatched_frame w x s).mono (by simp)
  unfold endHoldOff
  split
  · split
    · dsimp only
      split
      · exact (marked _).trans (selectWithNotice_frame _ _ _ _)
      · exact marked _
    · exact OnlyChanges.refl _ _
  · exact OnlyChanges.refl _ _

theorem timeOutWait_frame (s : State) : OnlyChanges [.sup, .ports] s (timeOutWait s) := by
  unfold timeOutWait
  split
  · split
    · exact (endWait_frame _ _).1
    · exact OnlyChanges.refl _ _
  · exact OnlyChanges.refl _ _

theorem selectAtStore_frame (before : State) (x : Source) (s : State) :
    OnlyChanges [.sup, .notices] s (selectAtStore before x s) := by
  simp [OnlyChanges, selectAtStore]

/-! ### Commands -/

theorem attachAt_frame (h : HostId) (s : State) : OnlyChanges [.ports] s (attachAt h s).1 := setPort_frame _ _ _

theorem claimAt_frame (h : HostId) (lease : BitVec 16) (s : State) :
    OnlyChanges [.auth, .notices] s (claimAt h lease s).1 := by
  unfold claimAt
  split
  · exact OnlyChanges.refl _ _
  · dsimp only
    split
    · exact grant_frame _ _ _
    · split
      · simp [OnlyChanges]
      · split
        · exact OnlyChanges.refl _ _
        · exact OnlyChanges.trans (by simp [OnlyChanges]) ((post_frame _ _ _).mono (by simp))

theorem releaseAt_frame (h : HostId) (s : State) :
    OnlyChanges [.sup, .auth, .notices, .ports] s (releaseAt h s).1 := by
  unfold releaseAt
  split
  · exact handOver_frame _ _ _
  · exact OnlyChanges.refl _ _

theorem withdrawAt_frame (h : HostId) (s : State) : OnlyChanges [.auth] s (withdrawAt h s).1 := by
  unfold withdrawAt
  split
  · exact leaveWaiting_frame _ _
  · exact OnlyChanges.refl _ _

theorem allocAt_frame (h : HostId) (s : State) : OnlyChanges [.pool] s (allocAt h s).1 := by
  unfold allocAt
  split
  · exact OnlyChanges.refl _ _
  · split
    · exact OnlyChanges.refl _ _
    · exact setTimer_frame _ _ _

theorem freeAt_frame (h : HostId) (slot : Byte) (s : State) :
    OnlyChanges [.pool, .notices] s (freeAt h slot s).1 := by
  unfold freeAt
  split
  · exact OnlyChanges.refl _ _
  · exact ((removeTimerNotice_frame _ _ _).mono (by simp)).trans ((setTimer_frame _ _ _).mono (by simp))

theorem takeSequence_frame (s : State) : OnlyChanges [.pool] s (takeSequence s).2 := by
  unfold takeSequence
  dsimp only
  split <;> simp [OnlyChanges, renumber]

theorem armTimer_frame (h : HostId) (i : Slot) (old : Timer) (x : ArmSettings) (first : Int) (skipped : Nat)
    (s : State) : OnlyChanges [.pool, .pins, .notices] s (armTimer h i old x first skipped s) := by
  have armed : ∀ t u, OnlyChanges [.pool, .pins, .notices] s
      ((takeSequence (s.setTimer i t)).2.setTimer i u) := fun t u =>
    (((setTimer_frame i t s).trans (takeSequence_frame _)).trans (setTimer_frame _ _ _)).mono (by simp)
  unfold armTimer
  dsimp only
  split
  · exact (armed _ _).trans (expire_frame _ _ _ _)
  · exact armed _ _

theorem armAt_frame (h : HostId) (v : ArmArg) (s : State) :
    OnlyChanges [.pool, .pins, .notices] s (armAt h v s).1 := by
  unfold armAt
  split
  · exact OnlyChanges.refl _ _
  · split
    · exact OnlyChanges.refl _ _
    · split
      · exact OnlyChanges.refl _ _
      · split
        · exact OnlyChanges.refl _ _
        · split
          · exact OnlyChanges.refl _ _
          · exact armTimer_frame _ _ _ _ _ _ _

theorem cancelAt_frame (h : HostId) (slot : Byte) (s : State) : OnlyChanges [.pool] s (cancelAt h slot s).1 := by
  unfold cancelAt
  split
  · exact OnlyChanges.refl _ _
  · split
    · exact setTimer_frame _ _ _
    · split <;> exact OnlyChanges.refl _ _

theorem timerStatusAt_state (h : HostId) (slot : Byte) (s : State) : (timerStatusAt h slot s).1 = s := by
  unfold timerStatusAt
  split <;> rfl

theorem takeAt_frame (h : HostId) (s : State) : OnlyChanges [.notices] s (takeAt h s).1 := by
  unfold takeAt
  dsimp only
  split
  · exact OnlyChanges.refl _ _
  · exact OnlyChanges.refl _ _
  · exact setBox_frame _ _ _

theorem ackAt_frame (h : HostId) (s : State) : OnlyChanges [.notices] s (ackAt h s).1 := by
  unfold ackAt
  dsimp only
  split
  · exact setBox_frame _ _ _
  · exact OnlyChanges.refl _ _

theorem peekAt_frame (h : HostId) (s : State) : OnlyChanges [.notices] s (peekAt h s).1 := setBox_frame _ _ _

theorem setThresholdAt_frame (h : HostId) (v : Byte) (s : State) :
    OnlyChanges [.notices] s (setThresholdAt h v s).1 := by
  unfold setThresholdAt
  split
  · exact OnlyChanges.refl _ _
  · exact setBox_frame _ _ _

theorem bindPinAt_frame (h : HostId) (pin idle : Byte) (width : BitVec 16) (s : State) :
    OnlyChanges [.pins] s (bindPinAt h pin idle width s).1 := by
  unfold bindPinAt
  split
  · dsimp only
    split
    · exact setPin_frame _ _ _
    · split
      · exact setPin_frame _ _ _
      · exact OnlyChanges.refl _ _
  · exact OnlyChanges.refl _ _

theorem unbindPinAt_frame (h : HostId) (pin : Byte) (s : State) :
    OnlyChanges [.pins] s (unbindPinAt h pin s).1 := by
  unfold unbindPinAt
  split
  · exact OnlyChanges.refl _ _
  · split
    · exact OnlyChanges.refl _ _
    · split
      · exact OnlyChanges.refl _ _
      · split
        · exact setPin_frame _ _ _
        · exact OnlyChanges.refl _ _

theorem drivePinAt_frame (h : HostId) (pin action : Byte) (s : State) :
    OnlyChanges [.pins] s (drivePinAt h pin action s).1 := by
  unfold drivePinAt
  split
  · exact OnlyChanges.refl _ _
  · split
    · exact OnlyChanges.refl _ _
    · split
      · exact OnlyChanges.refl _ _
      · split
        · exact OnlyChanges.refl _ _
        · exact applyAction_frame _ _ _ _

theorem pinStatusAt_state (pin : Byte) (s : State) : (pinStatusAt pin s).1 = s := by
  unfold pinStatusAt
  split <;> rfl

theorem setEdgesAt_frame (input selection : Byte) (s : State) :
    OnlyChanges [.cap] s (setEdgesAt input selection s).1 := by
  unfold setEdgesAt
  split
  · exact setInput_frame _ _ _
  · exact OnlyChanges.refl _ _

theorem subscribeAt_frame (h : HostId) (input cls : Byte) (s : State) :
    OnlyChanges [.cap] s (subscribeAt h input cls s).1 := by
  unfold subscribeAt
  split
  · exact setInput_frame _ _ _
  · exact OnlyChanges.refl _ _

theorem unsubscribeAt_frame (h : HostId) (input : Byte) (s : State) :
    OnlyChanges [.cap] s (unsubscribeAt h input s).1 := by
  unfold unsubscribeAt
  split
  · exact OnlyChanges.refl _ _
  · split
    · exact removeSubscriber_frame _ _ _
    · exact OnlyChanges.refl _ _

theorem readCaptureAt_frame (h : HostId) (which : Byte) (s : State) :
    OnlyChanges [.cap] s (readCaptureAt h which s).1 := by
  unfold readCaptureAt
  split
  · exact OnlyChanges.refl _ _
  · dsimp only
    split <;> simp [OnlyChanges, clearGaps]

end Sys2Proof.Machine
end

section
/-! What a transaction keeps: a property that sees no more of a port than its session is kept by every transaction and
every host command when carrying out the validated requests keeps it (R149 to R157). -/

namespace Sys2Proof.Machine

/-- `P` sees no more of a port than its session. -/
def SeesOnlySessions (P : State → Prop) : Prop :=
  ∀ (s : State) (h : HostId) (x : Port), x.attached = (s.port h).attached → P s → P (s.setPort h x)

/-- Carrying out a request that passed validation keeps `P` (R156). -/
def RequestsKeep (P : State → Prop) : Prop :=
  ∀ (h : HostId) (levels : Quad Level) (r : Request) (s : State), r.wellFormed = true →
    (s.attached h = true ∨ openToDetached r = true) → (authorityOnly r = true → holder s = some h) →
    P s → P (carryOut h levels r s).1

section Keeps

variable {P : State → Prop} {h : HostId} {levels : Quad Level} {s : State}

theorem SeesOnlySessions.holdAnswer (hp : SeesOnlySessions P) (op q : Byte) (x : Reply) (hs : P s) :
    P (holdAnswer h op q x s) := hp s h _ (by rfl) hs

theorem SeesOnlySessions.showStatus (hp : SeesOnlySessions P) (more : List Byte) (hs : P s) :
    P (showStatus h more s) := hp s h _ (by rfl) hs

theorem SeesOnlySessions.showNothing (hp : SeesOnlySessions P) (hs : P s) : P (showNothing h s) :=
  hp s h _ (by rfl) hs

theorem validate_keeps (hc : RequestsKeep P) (r : Request) (hs : P s) : P (validate h levels r s).1 := by
  unfold validate
  split
  · exact hs
  · next hw =>
    split
    · exact hs
    · next ha =>
      split
      · exact hs
      · next hh =>
        have open_or_attached : s.attached h = true ∨ openToDetached r = true := by
          cases c : s.attached h <;> simp_all
        exact hc h levels r s (by simpa using hw) open_or_attached (by simpa using hh) hs

theorem validateFrame_keeps (hc : RequestsKeep P) (f : Frame) (hs : P s) : P (validateFrame h levels f s).1 := by
  unfold validateFrame
  split
  · exact hs
  · split
    · exact hs
    · exact validate_keeps hc _ hs

/-- A frame that passed its check: refused, answered from the record, or taken (R154, R155, R157). -/
theorem takeChecked_keeps (hp : SeesOnlySessions P) {op q : Byte} {act : State → State × Option Reply}
    (ha : ∀ s, P s → P (act s).1) (hs : P s) : P (takeChecked h op q act s) := by
  have taken := ha _ (hp s h { s.port h with phase := .working op q } rfl hs)
  unfold takeChecked
  dsimp only
  split
  · exact hp s h _ rfl hs
  · split
    · exact hp s h _ rfl hs
    · split
      · next e =>
        rw [e] at taken
        exact hp.holdAnswer _ _ _ taken
      · next e =>
        rw [e] at taken
        exact taken

theorem requestRow_keeps (hp : SeesOnlySessions P) (hc : RequestsKeep P) (q : Byte) (r : Request) (hs : P s) :
    P (requestRow h q r levels s) := by
  unfold requestRow
  split
  · exact takeChecked_keeps hp (fun _ => validate_keeps hc r) (hp.showStatus _ hs)
  · exact hp.showNothing hs

theorem releaseSend_keeps (hp : SeesOnlySessions P) (hc : RequestsKeep P) (bs : List Byte) (hs : P s) :
    P (releaseSend h bs levels s) := by
  unfold releaseSend
  dsimp only
  split
  · exact hp s h _ rfl hs
  · split
    · exact hp s h _ rfl hs
    · split
      · exact takeChecked_keeps hp (fun _ => validateFrame_keeps hc _) hs
      · exact hp s h _ rfl hs

theorem transaction_keeps (hp : SeesOnlySessions P) (hc : RequestsKeep P) (first : Byte) (more : List Byte)
    (hs : P s) : P (transaction h first more levels s) := by
  unfold transaction
  split
  · split
    · exact hp.showStatus _ hs
    · exact releaseSend_keeps hp hc _ (hp.showStatus _ hs)
    · exact hp.showStatus _ hs
  · exact hp.showNothing hs

theorem whileRunning_keeps {f : State → State} (hf : P s → P (f s)) (hs : P s) : P (whileRunning f s) := by
  unfold whileRunning
  split
  · exact hf hs
  · exact hs

end Keeps

/-- What a step keeps is what every command keeps that the queue can hold, once the queue does not matter. -/
theorem step_keeps {P : State → Prop} (hq : ∀ s l, P s → P { s with pending := l })
    (he : ∀ i s t, P s → exec i s = .next t → P t) {s t : State} (hs : P s)
    (h : Sys2Proof.Machine.step s = .next t) : P t := by
  unfold Sys2Proof.Machine.step at h
  split at h
  · cases h; exact hs
  · exact he _ _ _ (hq _ _ hs) h

end Sys2Proof.Machine
end

section
/-! The count stays in range: every operation that writes the count or the retained domain keeps `CountInv` (R1 to R6,
R11 to R17, R168 to R170, R174). -/

namespace Sys2Proof.Machine

/-- A slew remainder in range, and 0 in UNSET (R6, R16). -/
def SlewInRange (c : Count) : Prop :=
  c.slew.natAbs ≤ 999999999 * 4294967296 ∧ (c.setState = .unset → c.slew = 0)

/-- What a live retained domain holds of the count is in range (R168). -/
def RetainedInRange (r : Option Retained) : Prop := ∀ x, r = some x → TimeInRange x.time x.residue

theorem countInv_iff (s : State) :
    CountInv s ↔ TimeInRange s.count.time s.count.residue ∧ s.count.heldResidue < 4294967296 ∧
      SlewInRange s.count ∧ RetainedInRange s.retained := by
  unfold CountInv TimeInRange SlewInRange RetainedInRange TimeInRange
  tauto

theorem timeInRange_zero : TimeInRange 0 0 := ⟨by decide, by decide⟩

/-- The greatest time value is in range (R4). -/
theorem timeInRange_maxTime : TimeInRange maxTime 0 := greatestTime.property

theorem slewInRange_of_zero {c : Count} (h : c.slew = 0) : SlewInRange c := by simp [SlewInRange, h]

/-- A count below the limit, split into its time value and residue (R3). -/
theorem timeInRange_of_total {total : Nat} (h : total < countLimit) : TimeInRange (total / fine) (total % fine) := by
  simp only [countLimit, maxTime, secondsLimit, nsPerSecond, fine] at h
  simp only [TimeInRange, fine]
  omega

theorem RetainedInRange.map {r : Option Retained} (h : RetainedInRange r) {f : Retained → Retained}
    (hf : ∀ x, TimeInRange x.time x.residue → TimeInRange (f x).time (f x).residue) :
    RetainedInRange (r.map f) := by
  intro y hy
  obtain ⟨x, hx, rfl⟩ := Option.map_eq_some_iff.1 hy
  exact hf x (h x hx)

/-! ### Frames -/

theorem CountInv.of_eq {s t : State} (hs : CountInv s) (hc : t.count = s.count)
    (hr : RetainedInRange s.retained → RetainedInRange t.retained) : CountInv t := by
  rw [countInv_iff] at hs ⊢
  obtain ⟨htime, hheld, hslew, hret⟩ := hs
  rw [hc]
  exact ⟨htime, hheld, hslew, hr hret⟩

/-- What changes neither the count nor the retained domain keeps both in range. -/
theorem CountInv.of_frame {ps : List Part} {s t : State} (hs : CountInv s) (hf : OnlyChanges ps s t)
    (hps : ∀ p ∈ ps, p ≠ .count ∧ p ≠ .retained) : CountInv t := by
  obtain ⟨h1, -, -, -, -, -, -, -, h9, -, -⟩ := hf
  have hr : t.retained = s.retained := h9 fun c => (hps _ c).2 rfl
  exact hs.of_eq (h1 fun c => (hps _ c).1 rfl) (by rw [hr]; exact id)

theorem countInv_seesOnlySessions : SeesOnlySessions CountInv := fun _ _ _ _ hs =>
  hs.of_frame (setPort_frame _ _ _) (by simp)

/-! ### Hand-off and advance -/

theorem handOff_countInv {s : State} (hs : CountInv s) : CountInv (handOff s) := by
  refine hs.of_eq rfl fun hr => ?_
  obtain ⟨htime, -⟩ := (countInv_iff s).1 hs
  exact hr.map fun _ _ => htime

theorem reachCount_countInv {total : Nat} {s : State} (hs : CountInv s) (h : total < countLimit) :
    CountInv (reachCount total s) := by
  have moved : CountInv { s with count := { s.count with
      time := total / fine, residue := total % fine, heldResidue := 0 } } := by
    rw [countInv_iff] at hs ⊢
    obtain ⟨-, -, hslew, hret⟩ := hs
    exact ⟨timeInRange_of_total h, Nat.zero_lt_succ _, hslew, hret⟩
  unfold reachCount
  dsimp only
  split
  · exact handOff_countInv moved
  · exact moved

/-- The count held at its greatest value (R4, log 12). -/
theorem holdCount_count (total : Nat) (s : State) :
    (holdCount total s).count = { s.count with
      time := maxTime, residue := 0
      heldResidue := (s.count.heldResidue + (total - maxTime * fine)) % fine } := rfl

theorem holdCount_countInv {total : Nat} {s : State} (hs : CountInv s) : CountInv (holdCount total s) := by
  rw [countInv_iff] at hs ⊢
  obtain ⟨-, -, hslew, hret⟩ := hs
  rw [holdCount_count]
  have hfine : ∀ n, n % fine < 4294967296 := fun n => Nat.mod_lt n (show 0 < fine by decide)
  exact ⟨timeInRange_maxTime, hfine _, hslew, hret⟩

theorem takeAdvance_countInv {m : Nat} {levels : Quad Level} {s : State} (hs : CountInv s) :
    CountInv (takeAdvance m levels s) := by
  have moved : CountInv (moveCount m s) := by
    rcases Nat.lt_or_ge (fineCount s + m) countLimit with h | h
    · rw [moveCount_of_lt _ _ h]; exact reachCount_countInv hs h
    · rw [moveCount_of_le _ _ h]; exact holdCount_countInv hs
  exact (moved.of_frame (runLease_frame _ _) (by simp)).of_frame (sampleInputs_frame _ _ _) (by simp)

/-- The applied part has the sign of the remainder, and what it leaves is no further from 0 (R17). -/
theorem sub_appliedSlew_natAbs (x : Source) (m : Int) :
    (m - appliedSlew x m).natAbs + (appliedSlew x m).natAbs = m.natAbs := by
  unfold appliedSlew
  split
  · omega
  · split <;> omega

theorem advance_countInv {levels : Quad Level} {s : State} (hs : CountInv s) : CountInv (advance levels s) := by
  refine takeAdvance_countInv ?_
  rw [countInv_iff] at hs ⊢
  obtain ⟨htime, hheld, ⟨hslew, hunset⟩, hret⟩ := hs
  have hsub : (s.count.slew - nextSlew s).natAbs + (nextSlew s).natAbs = s.count.slew.natAbs :=
    sub_appliedSlew_natAbs _ _
  refine ⟨htime, hheld, ⟨?_, fun hu => ?_⟩, hret⟩
  · show (s.count.slew - nextSlew s).natAbs ≤ _
    omega
  · have := hunset hu
    show s.count.slew - nextSlew s = 0
    omega

/-! ### Setting, stepping and slewing -/

theorem timeValueOf_lt {seconds nanoseconds value : Nat} (h : timeValueOf seconds nanoseconds = some value) :
    value < 1099511627776000000000 := by
  unfold timeValueOf at h
  split at h
  · next hlt =>
    cases h
    simp only [secondsLimit, nsPerSecond] at hlt ⊢
    omega
  · cases h

theorem firstSet_countInv {value : Nat} {s : State} (hs : CountInv s)
    (hv : value < 1099511627776000000000) : CountInv (firstSet value s) := by
  rw [countInv_iff] at hs
  obtain ⟨-, hheld, ⟨hslew, -⟩, hret⟩ := hs
  have taken : CountInv (handOff { s with count := { s.count with time := value, residue := 0, setState := .set } }) :=
    handOff_countInv ((countInv_iff _).2
      ⟨⟨hv, Nat.zero_lt_succ _⟩, hheld, ⟨hslew, fun c => by cases c⟩, hret⟩)
  refine taken.of_eq (by simp [firstSet, handOffFirstSet, moveSeen]) fun hr => ?_
  have e : (firstSet value s).retained =
      (handOff { s with count := { s.count with time := value, residue := 0, setState := .set } }).retained.map
        fun r => { r with timeSet := true } := by
    simp [firstSet, handOffFirstSet, moveSeen]
  rw [e]
  exact hr.map fun _ hx => hx

theorem applyStep_countInv {d : Int} {clearResidue : Bool} {s : State} (hs : CountInv s)
    (hd : (s.count.time : Int) + d < 1099511627776000000000) : CountInv (applyStep d clearResidue s) := by
  rw [countInv_iff] at hs
  obtain ⟨⟨htime, hres⟩, hheld, -, hret⟩ := hs
  have stepped : CountInv { s with count := { s.count with
      time := ((s.count.time : Int) + d).toNat, residue := if clearResidue then 0 else s.count.residue
      slew := 0, setState := .set } } := by
    refine (countInv_iff _).2 ⟨⟨?_, ?_⟩, hheld, slewInRange_of_zero rfl, hret⟩
    · show ((s.count.time : Int) + d).toNat < _
      omega
    · show (if clearResidue then 0 else s.count.residue) < _
      split <;> omega
  have moved := handOff_countInv ((stepped.of_frame (movePulseEnds_frame (· + d) _) (by simp)).of_frame
    (moveSeen_frame (· + d) _) (by simp))
  unfold applyStep
  dsimp only
  split
  · exact moved
  · exact (moved.of_frame (postAll_frame _ _) (by simp)).of_frame (stepRecognition_frame _ _ _) (by simp)

theorem setTimeAt_countInv {v : TimeArg} {s : State} (hs : CountInv s) : CountInv (setTimeAt v s).1 := by
  unfold setTimeAt
  split
  · exact hs
  · next value hv =>
    have hlt := timeValueOf_lt hv
    split
    · exact firstSet_countInv hs hlt
    · exact applyStep_countInv hs (by omega)

theorem stepAt_countInv {v : StepArg} {s : State} (hs : CountInv s) : CountInv (stepAt v s).1 := by
  unfold stepAt
  split
  · exact hs
  · split
    · exact hs
    · dsimp only
      split
      · next hle =>
        simp only [maxTime, secondsLimit, nsPerSecond] at hle
        exact applyStep_countInv hs (by omega)
      · exact hs

theorem slewAt_countInv {v : BitVec 64} {s : State} (hs : CountInv s) : CountInv (slewAt v s).1 := by
  unfold slewAt
  split
  · exact hs
  · next hset =>
    split
    · exact hs
    · next x hx =>
      rw [countInv_iff] at hs ⊢
      obtain ⟨htime, hheld, -, hret⟩ := hs
      refine ⟨htime, hheld, ⟨?_, fun hu => absurd hu hset⟩, hret⟩
      unfold slewOf at hx
      split at hx
      · cases hx
        simp only [slewLimit, fine] at *
        omega
      · cases hx

/-! ### The other writers of the retained domain -/

theorem setTrimAt_countInv {source : Byte} {trim : BitVec 32} {s : State} (hs : CountInv s) :
    CountInv (setTrimAt source trim s).1 := by
  unfold setTrimAt
  split
  · exact hs.of_eq rfl fun hr => hr.map fun _ hx => hx
  · exact hs

theorem storeList_countInv {l : List Source} {s : State} (hs : CountInv s) : CountInv (storeList l s) :=
  hs.of_eq rfl fun hr => hr.map fun _ hx => hx

theorem storeBridge_countInv {before s : State} {levels : Quad Level} (hs : CountInv s) :
    CountInv (storeBridge before levels s) := by
  unfold storeBridge
  split
  · exact takeAdvance_countInv (hs.of_eq rfl id)
  · exact hs

theorem setSourcesAt_countInv {h : HostId} {v : ListArg} {levels : Quad Level} {s : State} (hs : CountInv s) :
    CountInv (setSourcesAt h v levels s).1 := by
  unfold setSourcesAt
  split
  · exact hs
  · next l _ =>
    have waits : ∀ u : State, CountInv u → CountInv (if l.head? = some u.sup.selected
        then (u, some (selectedReply .ok u))
        else ({ u with sup := { u.sup with wait := some ⟨h, 0⟩ } }, none)).1 := fun u hu => by
      split
      · exact hu
      · exact hu.of_eq rfl id
    have bridged : CountInv (storeBridge s levels (storeList l s)) := storeBridge_countInv (storeList_countInv hs)
    refine waits _ ?_
    split
    · exact bridged.of_frame (selectAtStore_frame _ _ _) (by simp)
    · exact bridged

theorem failover_countInv {m : Nat} {levels : Quad Level} {s : State} (hs : CountInv s) :
    CountInv (failover m levels s) := by
  unfold failover
  exact ((takeAdvance_countInv hs).of_frame (withSup_frame _ _) (by simp)).of_frame (postAll_frame _ _) (by simp)

theorem loseSource_countInv {w : Watched} {levels : Quad Level} {s : State} (hs : CountInv s) :
    CountInv (loseSource w levels s) := by
  have failed : CountInv (s.setWatched w .failed) := hs.of_frame (setWatched_frame _ _ _) (by simp)
  unfold loseSource
  split
  · refine CountInv.of_frame ?_ (endWaitIf_frame _ _ _) (by simp)
    split
    · exact failover_countInv failed
    · split
      · exact failed.of_eq rfl id
      · exact failed
  · exact hs

theorem mainDomainCleared_countInv {s : State} (hs : CountInv s) : CountInv (mainDomainCleared s) := by
  rw [countInv_iff] at hs ⊢
  obtain ⟨-, -, -, hret⟩ := hs
  exact ⟨timeInRange_zero, Nat.zero_lt_succ _, slewInRange_of_zero rfl, hret⟩

/-- The count that a main reset restores (R20, R174). -/
theorem mainReset_count (s : State) :
    (mainReset s).count = ⟨(s.retained.getD .coldStart).time, (s.retained.getD .coldStart).residue,
      if (s.retained.getD .coldStart).timeSet then .retained else .unset, 0, 0⟩ := rfl

theorem mainReset_countInv {s : State} (hs : CountInv s) : CountInv (mainReset s) := by
  rw [countInv_iff] at hs ⊢
  obtain ⟨-, -, -, hret⟩ := hs
  rw [mainReset_count, mainReset_retained]
  refine ⟨?_, Nat.zero_lt_succ _, slewInRange_of_zero rfl, hret⟩
  cases e : s.retained with
  | none => exact timeInRange_zero
  | some r => exact hret r e

theorem resetIfEnded_countInv {s : State} (hs : CountInv s) : CountInv (resetIfEnded s) := by
  unfold resetIfEnded
  split
  · exact mainReset_countInv hs
  · exact hs

theorem retainedRise_countInv {s : State} (hs : CountInv s) : CountInv (retainedRise s) := by
  unfold retainedRise
  split
  · exact hs
  · refine (mainDomainCleared_countInv hs).of_eq rfl fun _ r hr => ?_
    cases hr
    exact timeInRange_zero

/-- An LP cycle that leaves the retained count in range (R170). -/
theorem Retained.tick_of_lt {r : Retained} (h : r.time * fine + r.residue + lpPeriod < countLimit) :
    r.tick = { r with
      time := (r.time * fine + r.residue + lpPeriod) / fine
      residue := (r.time * fine + r.residue + lpPeriod) % fine } := by
  unfold Retained.tick
  rw [if_pos h]

/-- An LP cycle that holds the retained count at its greatest value (R170). -/
theorem Retained.tick_of_le {r : Retained} (h : countLimit ≤ r.time * fine + r.residue + lpPeriod) :
    r.tick = { r with time := maxTime, residue := 0 } := by
  unfold Retained.tick
  rw [if_neg (Nat.not_lt.2 h)]

theorem Retained.tick_inRange (r : Retained) : TimeInRange r.tick.time r.tick.residue := by
  rcases Nat.lt_or_ge (r.time * fine + r.residue + lpPeriod) countLimit with h | h
  · rw [Retained.tick_of_lt h]
    exact timeInRange_of_total h
  · rw [Retained.tick_of_le h]
    exact timeInRange_maxTime

/-! ### Every command -/

theorem requestsKeep_countInv : RequestsKeep CountInv := by
  intro h levels r s _ _ _ hs
  cases r with
  | attach => exact hs.of_frame (attachAt_frame _ _) (by simp)
  | detach => exact hs.of_frame (teardown_frame _ _) (by simp)
  | status => exact hs
  | echo data => exact hs
  | sessions => exact hs
  | readTime => exact hs
  | timeStatus => exact hs
  | setTime v => exact setTimeAt_countInv hs
  | step v => exact stepAt_countInv hs
  | slew v => exact slewAt_countInv hs
  | setTrim source trim => exact setTrimAt_countInv hs
  | setSources v => exact setSourcesAt_countInv hs
  | sourceStatus => exact hs
  | claim lease => exact hs.of_frame (claimAt_frame _ _ _) (by simp)
  | release => exact hs.of_frame (releaseAt_frame _ _) (by simp)
  | withdraw => exact hs.of_frame (withdrawAt_frame _ _) (by simp)
  | authStatus => exact hs
  | alloc => exact hs.of_frame (allocAt_frame _ _) (by simp)
  | free slot => exact hs.of_frame (freeAt_frame _ _ _) (by simp)
  | arm v => exact hs.of_frame (armAt_frame _ _ _) (by simp)
  | cancel slot => exact hs.of_frame (cancelAt_frame _ _ _) (by simp)
  | timerStatus slot => exact (timerStatusAt_state h slot s).symm ▸ hs
  | take => exact hs.of_frame (takeAt_frame _ _) (by simp)
  | ack => exact hs.of_frame (ackAt_frame _ _) (by simp)
  | peek => exact hs.of_frame (peekAt_frame _ _) (by simp)
  | setThreshold v => exact hs.of_frame (setThresholdAt_frame _ _ _) (by simp)
  | bindPin pin idle width => exact hs.of_frame (bindPinAt_frame _ _ _ _ _) (by simp)
  | unbindPin pin => exact hs.of_frame (unbindPinAt_frame _ _ _) (by simp)
  | drivePin pin action => exact hs.of_frame (drivePinAt_frame _ _ _ _) (by simp)
  | pinStatus pin => exact (pinStatusAt_state pin s).symm ▸ hs
  | setEdges input selection => exact hs.of_frame (setEdgesAt_frame _ _ _) (by simp)
  | subscribe input cls => exact hs.of_frame (subscribeAt_frame _ _ _ _) (by simp)
  | unsubscribe input => exact hs.of_frame (unsubscribeAt_frame _ _ _) (by simp)
  | readCapture which => exact hs.of_frame (readCaptureAt_frame _ _ _) (by simp)

theorem hrstAssert_countInv {h : HostId} {s t : State} (hs : CountInv s) (e : exec (.hrstAssert h) s = .next t) :
    CountInv t := by
  obtain rfl := Host.Outcome.next.inj e
  split
  · exact hs
  · split
    · refine CountInv.of_frame ?_ (setPort_frame _ _ _) (by simp)
      split
      · exact hs.of_frame (teardown_frame _ _) (by simp)
      · exact hs
    · exact hs.of_frame (setPort_frame _ _ _) (by simp)

/-- An event of the main domain that changes neither the count nor the retained domain. -/
theorem whileRunning_countInv {ps : List Part} {f : State → State} {s : State} (hs : CountInv s)
    (hf : OnlyChanges ps s (f s)) (hps : ∀ p ∈ ps, p ≠ .count ∧ p ≠ .retained) : CountInv (whileRunning f s) :=
  whileRunning_keeps (fun c => c.of_frame hf hps) hs

theorem exec_countInv (i : Instr) (s t : State) (hs : CountInv s) (e : exec i s = .next t) : CountInv t := by
  have blind := countInv_seesOnlySessions
  have kept := requestsKeep_countInv
  cases i with
  | poll h first more =>
    obtain rfl := Host.Outcome.next.inj e
    split
    · exact transaction_keeps blind kept _ _ hs
    · exact blind.showNothing hs
  | send h frame levels => exact Host.Outcome.next.inj e ▸ transaction_keeps blind kept _ _ hs
  | fetch h more => exact Host.Outcome.next.inj e ▸ transaction_keeps blind kept _ _ hs
  | advance levels => exact Host.Outcome.next.inj e ▸ whileRunning_keeps advance_countInv hs
  | expiry =>
    exact Host.Outcome.next.inj e ▸ whileRunning_countInv hs (expireReached_onlyChanges _ _ _ _) (by simp)
  | pulseEnd p => exact Host.Outcome.next.inj e ▸ whileRunning_countInv hs (endPulse_frame _ _) (by simp)
  | capture => exact Host.Outcome.next.inj e ▸ whileRunning_countInv hs (takeCapture_frame _) (by simp)
  | leaseExpiry => exact Host.Outcome.next.inj e ▸ whileRunning_countInv hs (expireLease_frame _) (by simp)
  | rcCycle =>
    obtain rfl := Host.Outcome.next.inj e
    split
    · exact hs.of_eq rfl id
    · exact whileRunning_countInv hs (superviseCycle_frame _) (by simp)
  | sourceEdge w =>
    exact Host.Outcome.next.inj e ▸ whileRunning_countInv hs (setWatched_frame _ _ _) (by simp)
  | sourceLoss w levels => exact Host.Outcome.next.inj e ▸ whileRunning_keeps loseSource_countInv hs
  | qualification w => exact Host.Outcome.next.inj e ▸ whileRunning_countInv hs (qualify_frame _ _) (by simp)
  | holdOffEnd w => exact Host.Outcome.next.inj e ▸ whileRunning_countInv hs (endHoldOff_frame _ _) (by simp)
  | waitTimeout => exact Host.Outcome.next.inj e ▸ whileRunning_countInv hs (timeOutWait_frame _) (by simp)
  | hrstAssert h => exact hrstAssert_countInv hs e
  | mainResetConditionBegin cause =>
    obtain rfl := Host.Outcome.next.inj e
    split <;> exact hs.of_eq rfl id
  | resetnRelease =>
    obtain rfl := Host.Outcome.next.inj e
    split
    · exact resetIfEnded_countInv (hs.of_eq rfl id)
    · exact hs
  | powerUpDelayEnd =>
    obtain rfl := Host.Outcome.next.inj e
    split
    · split
      · exact resetIfEnded_countInv (hs.of_eq rfl id)
      · exact hs
    · exact hs
  | vmainLoss =>
    obtain rfl := Host.Outcome.next.inj e
    split
    · exact hs
    · exact (mainDomainCleared_countInv hs).of_eq rfl id
  | lpCycle => exact Host.Outcome.next.inj e ▸ hs.of_eq rfl fun hr => hr.map fun r _ => r.tick_inRange
  | retainedStateLoss =>
    obtain rfl := Host.Outcome.next.inj e
    split
    · exact hs.of_eq rfl fun _ _ hr => by cases hr
    · exact hs.of_eq rfl fun _ _ hr => by cases hr
    · exact hs
  | coldStart => exact Host.Outcome.next.inj e ▸ retainedRise_countInv hs
  | hrstRelease h => exact Host.Outcome.next.inj e ▸ hs.of_frame (setPort_frame _ _ _) (by simp)
  | vmainRise =>
    obtain rfl := Host.Outcome.next.inj e
    split
    · exact retainedRise_countInv (hs.of_eq rfl id)
    · exact hs.of_eq rfl id
    · exact hs
  | _ => exact Host.Outcome.next.inj e ▸ requestRow_keeps blind kept _ _ hs

/-- Settles O9: the commands that write the count or the retained domain keep `CountInv`, the others by their frames. -/
theorem stepKeepsCount : Obligations.StepKeepsCount := by
  unfold Obligations.StepKeepsCount
  intro s t hs h
  exact step_keeps (fun _ _ hs => hs.of_eq rfl id) exec_countInv hs h

end Sys2Proof.Machine
end

section
/-! The commands of the time count that are answered in their own event: reads, SLEW, the refusals, and the first set
(R8 to R11, R16). -/

namespace Sys2Proof.Machine

/-- A request answered in its own event, by a command that leaves the ports to the port block: the state it leaves, with
the answer held there. -/
theorem request_held {h : HostId} {q : Byte} {r : Request} {levels : Quad Level} {s t : State} {res : Result}
    {payload : List Byte} {parts : List Part} (hr : Ready h (opcodeOf r) q s) (hw : r.wellFormed = true)
    (ha : s.attached h = true ∨ openToDetached r = true) (hh : authorityOnly r = true → holder s = some h)
    (hc : carryOut h levels r (requestTaken h q r s) = (t, some ⟨res, payload⟩))
    (ho : OnlyChanges parts (requestTaken h q r s) t) (hp : t.ports = (requestTaken h q r s).ports) :
    (Host.Outcome.next (requestRow h q r levels s) : Host.Outcome State Fault Refusal) =
        .next (holdAnswer h (opcodeOf r) q ⟨res, payload⟩ t) ∧
      RequestFrame h parts s (holdAnswer h (opcodeOf r) q ⟨res, payload⟩ t) ∧
      Answers h (opcodeOf r) q res payload (holdAnswer h (opcodeOf r) q ⟨res, payload⟩ t) := by
  obtain ⟨u, e, hf, rfl, hx⟩ := request_outcome (P := (· = holdAnswer h (opcodeOf r) q ⟨res, payload⟩ t))
    hr hw ha hh hc ho hp rfl
  exact ⟨e, hf, hx⟩

/-! ### Reads (R8, R9) -/

end Sys2Proof.Machine

namespace Sys2Proof.Proofs

open Sys2Proof.Machine

/-- Settles O20: both reads are answered from the count and leave the block as it stands. -/
theorem timeReads : Obligations.TimeReads := by
  unfold Obligations.TimeReads
  intro h q s
  refine ⟨fun ⟨hr, ha⟩ => ?_, fun ⟨hr, ha⟩ => ?_⟩
  · exact request_unchanged hr rfl (.inl ha) (fun c => by cases c) rfl
  · exact request_unchanged hr rfl (.inl ha) (fun c => by cases c) rfl

end Sys2Proof.Proofs

namespace Sys2Proof.Machine

/-! ### SLEW (R16) -/

/-- A slew amount in range (R10). -/
theorem slewOf_of_range {v : BitVec 64} (hlo : -999999999 ≤ v.toInt) (hhi : v.toInt ≤ 999999999) :
    slewOf v = some v.toInt := if_pos ⟨hlo, hhi⟩

/-- A slew amount out of range (R10). -/
theorem slewOf_out_of_range {v : BitVec 64} (h : v.toInt < -999999999 ∨ 999999999 < v.toInt) : slewOf v = none := by
  unfold slewOf
  rw [if_neg]
  simp only [slewLimit]
  omega

/-- SLEW in a count that is set, of an amount in range (R16). -/
theorem slewAt_of_some {v : BitVec 64} {x : Int} {s : State} (hset : s.count.setState ≠ .unset)
    (hx : slewOf v = some x) : slewAt v s =
      ({ s with count := { s.count with slew := x * fine } }, .okWith (durationBytes (wholeSlew s))) := by
  unfold slewAt
  rw [if_neg hset, hx]

theorem slewAt_of_none {v : BitVec 64} {s : State} (hset : s.count.setState ≠ .unset) (hx : slewOf v = none) :
    slewAt v s = (s, .bare .range) := by
  unfold slewAt
  rw [if_neg hset, hx]

end Sys2Proof.Machine

namespace Sys2Proof.Proofs

open Sys2Proof.Machine

/-- Settles O23: an amount in range replaces the remainder, and the replaced one is reported. -/
theorem slewReplacesRemainder : Obligations.SlewReplacesRemainder := by
  unfold Obligations.SlewReplacesRemainder
  rintro h q v s ⟨⟨hr, ha⟩, hh⟩ hset hlo hhi
  have hc : carryOut h noLevels (.slew v) (requestTaken h q (.slew v) s) =
      ({ requestTaken h q (.slew v) s with count := { s.count with slew := v.toInt * 4294967296 } },
        some ⟨.ok, durationBytes (s.count.slew.tdiv 4294967296)⟩) := by
    have hset' : (requestTaken h q (.slew v) s).count.setState ≠ .unset := hset
    rw [carryOut, slewAt_of_some hset' (slewOf_of_range hlo hhi)]
    rfl
  obtain ⟨e, hf, hx⟩ := request_held (parts := [.count]) hr rfl (.inl ha) (fun _ => hh) hc (by simp [OnlyChanges]) rfl
  exact ⟨_, e, rfl, hf, hx⟩

end Sys2Proof.Proofs

namespace Sys2Proof.Machine

/-! ### Refusals (R10) -/

theorem timeOf_of_range {v : TimeArg} (h : v.nanoseconds.toNat ≤ 999999999) :
    timeOf v = some (v.seconds.toNat * 1000000000 + v.nanoseconds.toNat) := by
  have := v.seconds.isLt
  unfold timeOf timeValueOf
  rw [if_pos]
  · rfl
  · simp only [secondsLimit, nsPerSecond]
    omega

theorem timeOf_out_of_range {v : TimeArg} (h : 999999999 < v.nanoseconds.toNat) : timeOf v = none := by
  unfold timeOf timeValueOf
  rw [if_neg]
  simp only [nsPerSecond]
  omega

/-- The magnitude of a received step amount, in nanoseconds (R179). -/
def stepMagnitude (v : StepArg) : Nat := v.seconds.toNat * 1000000000 + v.nanoseconds.toNat

/-- A step amount in range is its magnitude with the sign it names, 0 or 1 (R10, R179). -/
theorem amountOf_of_range {v : StepArg} (hn : v.nanoseconds.toNat ≤ 999999999)
    (hm : stepMagnitude v ≤ 1099511627776000000000) :
    amountOf v = if v.sign = 0 then some (stepMagnitude v : Int)
      else if v.sign = 1 then some (-(stepMagnitude v : Int)) else none := by
  unfold amountOf
  dsimp only
  rw [if_pos]
  · rfl
  · simp only [stepMagnitude] at hm
    simp only [nsPerSecond, stepLimit, secondsLimit]
    omega

theorem amountOf_out_of_range {v : StepArg}
    (h : 999999999 < v.nanoseconds.toNat ∨ 1099511627776000000000 < stepMagnitude v) : amountOf v = none := by
  unfold amountOf
  dsimp only
  rw [if_neg]
  simp only [stepMagnitude] at h
  simp only [nsPerSecond, stepLimit, secondsLimit]
  omega

/-- STEP in a count that is set, of an amount in range: its result decides (R10, R13). -/
theorem stepAt_of_some {v : StepArg} {d : Int} {s : State} (hset : s.count.setState ≠ .unset)
    (hd : amountOf v = some d) : stepAt v s =
      if 0 ≤ (s.count.time : Int) + d ∧ (s.count.time : Int) + d ≤ maxTime then
        (applyStep d false s, .okWith (amountBytes d ++ durationBytes (wholeSlew s)))
      else (s, .bare .range) := by
  unfold stepAt
  rw [if_neg hset, hd]

theorem stepAt_of_none {v : StepArg} {s : State} (hset : s.count.setState ≠ .unset) (hd : amountOf v = none) :
    stepAt v s = (s, .bare .range) := by
  unfold stepAt
  rw [if_neg hset, hd]

/-- An amount out of range, one without a sign, and one whose result is out of range (R10). -/
theorem stepAt_out_of_range {v : StepArg} {s : State} (hset : s.count.setState ≠ .unset)
    (h : 999999999 < v.nanoseconds.toNat ∨ 1099511627776000000000 < stepMagnitude v ∨ (v.sign ≠ 0 ∧ v.sign ≠ 1) ∨
      (v.sign = 0 ∧ 1099511627776000000000 ≤ s.count.time + stepMagnitude v) ∨
      (v.sign = 1 ∧ s.count.time < stepMagnitude v)) :
    stepAt v s = (s, .bare .range) := by
  by_cases hout : 999999999 < v.nanoseconds.toNat ∨ 1099511627776000000000 < stepMagnitude v
  · exact stepAt_of_none hset (amountOf_out_of_range hout)
  · have hamount := amountOf_of_range (v := v) (by omega) (by omega)
    have hresult : (v.sign ≠ 0 ∧ v.sign ≠ 1) ∨
        (v.sign = 0 ∧ 1099511627776000000000 ≤ s.count.time + stepMagnitude v) ∨
        (v.sign = 1 ∧ s.count.time < stepMagnitude v) := by tauto
    rcases hresult with ⟨h0, h1⟩ | ⟨h0, hle⟩ | ⟨h1, hlt⟩
    · rw [if_neg h0, if_neg h1] at hamount
      exact stepAt_of_none hset hamount
    · rw [if_pos h0] at hamount
      rw [stepAt_of_some hset hamount, if_neg]
      simp only [maxTime, secondsLimit, nsPerSecond]
      omega
    · rw [if_neg (by simp [h1]), if_pos h1] at hamount
      rw [stepAt_of_some hset hamount, if_neg]
      omega

/-- A request of the holder that its block refuses with `x` (R156). -/
theorem holder_refused {h : HostId} {q : Byte} {r : Request} {s : State} {x : Result}
    (ht : TakesAsHolder h (opcodeOf r) q s) (hw : r.wellFormed = true)
    (hc : carryOut h noLevels r (requestTaken h q r s) = (requestTaken h q r s, some (.bare x))) :
    ∃ t, (Host.Outcome.next (requestRow h q r noLevels s) : Host.Outcome State Fault Refusal) = .next t ∧
      Answers h (opcodeOf r) q x [] t ∧ RequestFrame h [] s t := by
  obtain ⟨⟨hr, ha⟩, hh⟩ := ht
  obtain ⟨t, e, hf, hx⟩ := request_unchanged hr hw (.inl ha) (fun _ => hh) hc
  exact ⟨t, e, hx, hf⟩

end Sys2Proof.Machine

namespace Sys2Proof.Proofs

open Sys2Proof.Machine

/-- Settles O24: each refusal is decided on the operand and the count alone. -/
theorem timeCommandsRefused : Obligations.TimeCommandsRefused := by
  unfold Obligations.TimeCommandsRefused
  refine fun h q s => ⟨fun v ht hn => ?_, fun v ht => ⟨fun hu => ?_, fun hset hout => ?_⟩,
    fun v ht => ⟨fun hu => ?_, fun hset hout => ?_⟩⟩
  · refine holder_refused (r := .setTime v) ht rfl ?_
    rw [carryOut, setTimeAt, timeOf_out_of_range hn]
    rfl
  · refine holder_refused (r := .step v) ht rfl ?_
    rw [carryOut, stepAt, if_pos (by exact hu)]
    rfl
  · refine holder_refused (r := .step v) ht rfl ?_
    rw [carryOut, stepAt_out_of_range (by exact hset) (by exact hout)]
    rfl
  · refine holder_refused (r := .slew v) ht rfl ?_
    rw [carryOut, slewAt, if_pos (by exact hu)]
    rfl
  · refine holder_refused (r := .slew v) ht rfl ?_
    rw [carryOut, slewAt_of_none (by exact hset) (slewOf_out_of_range hout)]
    rfl

end Sys2Proof.Proofs

namespace Sys2Proof.Machine

/-! ### The first set (R11) -/

/-- What a moved ELAPSED deadline is, for a move by `d` (R49). -/
theorem moveElapsed_add_timer (d : Int) (s : State) (i : Slot) :
    (moveElapsed (· + d) s).timer i = (s.timer i).map (movedBy d) := by
  rw [moveElapsed_timer]
  rfl

/-- What a moved pulse is, for a move by `d` (R129). -/
theorem movePulseEnds_add_pin (d : Int) (s : State) (p : PinId) :
    (movePulseEnds (· + d) s).pin p = (s.pin p).map (pulseMovedBy d) := by
  rw [movePulseEnds_pin]
  rfl

section FirstSet

variable (value : Nat) (s : State)

theorem firstSet_count :
    (firstSet value s).count = { s.count with time := value, residue := 0, setState := .set } := by
  simp [firstSet, handOffFirstSet, moveSeen]

theorem firstSet_retained : (firstSet value s).retained =
    s.retained.map fun r => { r with time := value, residue := 0, timeSet := true } := by
  simp [firstSet, handOffFirstSet, moveSeen, Function.comp_def]

theorem firstSet_timer (i : Slot) :
    (firstSet value s).timer i = (s.timer i).map (movedBy ((value : Int) - s.count.time)) := by
  rw [firstSet, postAll_timer]
  exact moveElapsed_add_timer _ _ _

theorem firstSet_nextSeq : (firstSet value s).pool.nextSeq = s.pool.nextSeq := by
  rw [firstSet, postAll_pool]
  rfl

theorem firstSet_pin (p : PinId) :
    (firstSet value s).pin p = (s.pin p).map (pulseMovedBy ((value : Int) - s.count.time)) := by
  rw [firstSet, postAll_pin]
  exact movePulseEnds_add_pin _ _ _

theorem firstSet_cap : (firstSet value s).cap = { s.cap with
    seen := s.cap.seen.map fun e => { e with stamp := e.stamp + ((value : Int) - s.count.time) } } := by
  rw [firstSet, postAll_cap]
  rfl

theorem firstSet_ports : (firstSet value s).ports = s.ports := by
  rw [firstSet, postAll_ports]
  rfl

theorem firstSet_frame :
    OnlyChanges [.count, .retained, .pool, .pins, .cap, .notices] s (firstSet value s) := by
  simp [OnlyChanges, firstSet, handOffFirstSet, moveSeen]

/-- Every attached host is posted TIME_STEPPED with FIRST_SET and the detail 0 (R11, R15). -/
theorem firstSet_postedAll (hu : s.count.setState = .unset) :
    PostedAll (systemNotice .timeStepped value none (some (.number 0)) ⟨false, holdover s, false, true⟩) s
      (firstSet value s) := by
  intro g
  rw [firstSet, postAll_box, hu]
  rfl

end FirstSet

end Sys2Proof.Machine

namespace Sys2Proof.Proofs

open Sys2Proof.Machine

/-- Settles O21: what `firstSet` does to each part of the block, seen through the held answer. -/
theorem firstSet : Obligations.FirstSet := by
  unfold Obligations.FirstSet
  rintro h q v s ⟨⟨hr, ha⟩, hh⟩ hu hn value d
  have hu' : (requestTaken h q (.setTime v) s).count.setState = .unset := hu
  have hc : carryOut h noLevels (.setTime v) (requestTaken h q (.setTime v) s) =
      (Machine.firstSet value (requestTaken h q (.setTime v) s), some ⟨.ok, List.replicate 19 0⟩) := by
    rw [carryOut, setTimeAt, timeOf_of_range hn]
    dsimp only
    rw [if_pos hu']
    rfl
  have posted := firstSet_postedAll value _ hu'
  obtain ⟨e, hf, hx⟩ := request_held hr rfl (.inl ha) (fun _ => hh) hc (firstSet_frame _ _) (firstSet_ports _ _)
  refine ⟨_, e, firstSet_count _ _, firstSet_retained _ _, firstSet_timer _ _, firstSet_nextSeq _ _,
    firstSet_pin _ _, firstSet_cap _ _, fun g => ?_, hx, hf⟩
  rw [holdAnswer_box, posted g, requestTaken_attached]
  rfl

end Sys2Proof.Proofs
end

section
/-! The advance of the count: in range, held at the greatest time value, and its amount (R2 to R5, R17). -/

namespace Sys2Proof.Machine

/-! ### In range (R3, R19) -/

section ReachCount

variable (total : Nat) (s : State)

/-- Below the limit, the count is split into its time value and residue (R3). -/
theorem reachCount_count : (reachCount total s).count =
    { s.count with time := total / fine, residue := total % fine, heldResidue := 0 } := by
  unfold reachCount
  dsimp only
  split <;> rfl

/-- The hand-off at a whole-second boundary (R19). -/
theorem reachCount_retained : (reachCount total s).retained =
    if secondsOf s.count.time < secondsOf (reachCount total s).count.time then
      s.retained.map fun r =>
        { r with time := (reachCount total s).count.time, residue := (reachCount total s).count.residue }
    else s.retained := by
  rw [reachCount_count]
  unfold reachCount
  dsimp only
  split <;> rfl

theorem reachCount_frame : OnlyChanges [.count, .retained] s (reachCount total s) := by
  unfold reachCount
  dsimp only
  split
  · simp [OnlyChanges]
  · simp [OnlyChanges]

end ReachCount

/-! ### Held (R4, R49, R73) -/

/-- What the count does not take of an advance to `total`, with the fraction held over (R4, log 12). -/
def untaken (total : Nat) (s : State) : Nat := s.count.heldResidue + (total - maxTime * fine)

section HoldCount

variable (total : Nat) (s : State)

theorem holdCount_timer (i : Slot) :
    (holdCount total s).timer i = (s.timer i).map (movedBy (-((untaken total s / fine : Nat) : Int))) := by
  have e : (holdCount total s).timer i = (moveElapsed (· - ((untaken total s / fine : Nat) : Int)) s).timer i := rfl
  rw [e, moveElapsed_timer]
  rfl

theorem holdCount_nextSeq : (holdCount total s).pool.nextSeq = s.pool.nextSeq := rfl

theorem holdCount_pin (p : PinId) :
    (holdCount total s).pin p = (s.pin p).map (pulseMovedBy (-((untaken total s / fine : Nat) : Int))) := by
  have e : (holdCount total s).pin p = (movePulseEnds (· - ((untaken total s / fine : Nat) : Int)) s).pin p := rfl
  rw [e, movePulseEnds_pin]
  rfl

theorem holdCount_frame : OnlyChanges [.count, .pool, .pins] s (holdCount total s) := by simp [OnlyChanges]

end HoldCount

/-! ### The whole advance -/

/-- The part of an advance that no outcome of the count changes (R5, R107, R135). -/
theorem takeAdvance_rest_frame (m : Nat) (levels : Quad Level) (s : State) :
    OnlyChanges [.auth, .cap] (moveCount m s) (takeAdvance m levels s) :=
  ((runLease_frame m _).mono (by simp)).trans ((sampleInputs_frame m levels _).mono (by simp))

/-- The state that ADVANCE hands to the advance of the count: the applied part off the slew, no source being left (R17,
R30). -/
def slewApplied (s : State) : State :=
  { s with
    count := { s.count with slew := s.count.slew - nextSlew s }
    sup := { s.sup with leaving := none } }

theorem advance_eq (levels : Quad Level) (s : State) :
    advance levels s = takeAdvance (nextAdvance s) levels (slewApplied s) := rfl

/-- An ADVANCE while the main domain runs (R2). -/
theorem exec_advance_of_running {s : State} (levels : Quad Level) (h : s.running = true) :
    exec (.advance levels) s = .next (takeAdvance (nextAdvance s) levels (slewApplied s)) := by
  rw [← advance_eq]
  show Host.Outcome.next (whileRunning (advance levels) s) = _
  rw [whileRunning, if_pos h]

theorem slewApplied_frame (s : State) : OnlyChanges [.count, .sup] s (slewApplied s) := by
  simp [OnlyChanges, slewApplied]

/-- What an advance in range does to the count and what runs with it (R3, R5, R19, R107); `s` is the state before it. -/
theorem takeAdvance_of_lt {m : Nat} {levels : Quad Level} {s : State} (h : fineCount s + m < countLimit) :
    (takeAdvance m levels s).count = { s.count with
        time := (fineCount s + m) / fine, residue := (fineCount s + m) % fine, heldResidue := 0 } ∧
    (takeAdvance m levels s).retained =
      (if secondsOf s.count.time < secondsOf (takeAdvance m levels s).count.time then s.retained.map fun r =>
        { r with
          time := (takeAdvance m levels s).count.time, residue := (takeAdvance m levels s).count.residue }
      else s.retained) ∧
    OnlyChanges [.count, .auth, .retained, .cap] s (takeAdvance m levels s) := by
  have rest := takeAdvance_rest_frame m levels s
  rw [takeAdvance_count, takeAdvance_retained]
  rw [moveCount_of_lt _ _ h] at rest ⊢
  exact ⟨reachCount_count _ _, reachCount_retained _ _,
    ((reachCount_frame _ _).mono (by simp)).trans (rest.mono (by simp))⟩

/-- What an advance that is held does to the count, the deadlines and the pulse ends (R4, R49, R73, R129). -/
theorem takeAdvance_of_le {m : Nat} {levels : Quad Level} {s : State} (h : countLimit ≤ fineCount s + m) :
    (takeAdvance m levels s).count = { s.count with
        time := maxTime, residue := 0, heldResidue := untaken (fineCount s + m) s % fine } ∧
    (∀ i, (takeAdvance m levels s).timer i =
      (s.timer i).map (movedBy (-((untaken (fineCount s + m) s / fine : Nat) : Int)))) ∧
    (takeAdvance m levels s).pool.nextSeq = s.pool.nextSeq ∧
    (∀ p, (takeAdvance m levels s).pin p =
      (s.pin p).map (pulseMovedBy (-((untaken (fineCount s + m) s / fine : Nat) : Int)))) ∧
    OnlyChanges [.count, .auth, .pool, .pins, .cap] s (takeAdvance m levels s) := by
  have rest := takeAdvance_rest_frame m levels s
  have timers : ∀ i, (takeAdvance m levels s).timer i = (moveCount m s).timer i := fun i => by
    rw [State.timer, State.timer, takeAdvance_pool]
  have pins : ∀ p, (takeAdvance m levels s).pin p = (moveCount m s).pin p := fun p => by
    rw [State.pin, State.pin, takeAdvance_pins]
  rw [takeAdvance_count, takeAdvance_pool]
  simp only [timers, pins]
  rw [moveCount_of_le _ _ h] at rest ⊢
  exact ⟨holdCount_count _ _, holdCount_timer _ _, holdCount_nextSeq _ _, holdCount_pin _ _,
    ((holdCount_frame _ _).mono (by simp)).trans (rest.mono (by simp))⟩

end Sys2Proof.Machine

namespace Sys2Proof.Proofs

open Sys2Proof.Machine

/-- Settles O25: the bridge is `takeAdvance`, and an ADVANCE is `takeAdvance` on the state with the slew applied. -/
theorem advanceMovesCount : Obligations.AdvanceMovesCount := by
  unfold Obligations.AdvanceMovesCount
  intro levels m s total hlt moved
  have hlt' : ∀ u : State, fineCount u = fineCount s → fineCount u + m < countLimit := fun u e => by
    rw [e]; exact hlt
  refine ⟨fun hrun hm => ?_, ?_, ?_⟩
  · subst hm
    obtain ⟨hcount, hret, hframe⟩ := takeAdvance_of_lt (levels := levels) (hlt' (slewApplied s) rfl)
    exact ⟨_, exec_advance_of_running levels hrun,
      ⟨hcount, takeAdvance_auth _ _ _, hret, takeAdvance_log _ _ _, takeAdvance_serial _ _ _⟩,
      takeAdvance_sup _ _ _, ((slewApplied_frame s).mono (by simp)).trans (hframe.mono (by simp))⟩
  · obtain ⟨hcount, hret, -⟩ := takeAdvance_of_lt (levels := levels) (hlt' s rfl)
    exact ⟨hcount, takeAdvance_auth _ _ _, hret, takeAdvance_log _ _ _, takeAdvance_serial _ _ _⟩
  · exact (takeAdvance_of_lt (hlt' s rfl)).2.2

/-- Settles O26: as O25, with the count held. -/
theorem advanceHoldsCount : Obligations.AdvanceHoldsCount := by
  unfold Obligations.AdvanceHoldsCount
  intro levels m s total hle untaken d held
  have hle' : ∀ u : State, fineCount u = fineCount s → countLimit ≤ fineCount u + m := fun u e => by
    rw [e]; exact hle
  refine ⟨fun hrun hm => ?_, ?_, ?_⟩
  · subst hm
    obtain ⟨hcount, htimer, hseq, hpin, hframe⟩ := takeAdvance_of_le (levels := levels) (hle' (slewApplied s) rfl)
    exact ⟨_, exec_advance_of_running levels hrun,
      ⟨hcount, takeAdvance_auth _ _ _, htimer, hseq, hpin, takeAdvance_log _ _ _, takeAdvance_serial _ _ _⟩,
      takeAdvance_sup _ _ _, ((slewApplied_frame s).mono (by simp)).trans (hframe.mono (by simp))⟩
  · obtain ⟨hcount, htimer, hseq, hpin, -⟩ := takeAdvance_of_le (levels := levels) (hle' s rfl)
    exact ⟨hcount, takeAdvance_auth _ _ _, htimer, hseq, hpin, takeAdvance_log _ _ _, takeAdvance_serial _ _ _⟩
  · obtain ⟨-, -, -, -, hframe⟩ := takeAdvance_of_le (levels := levels) (hle' s rfl)
    exact hframe

end Sys2Proof.Proofs
end

section
/-! The amount of an advance (R2, R17). -/

namespace Sys2Proof.Machine

/-- A trim in range leaves between 0.95 and 1.05 of the nominal period, rounded toward zero (R2, R32). -/
theorem trimmedPeriod_bounds (x : Source) {trim : Int} (hlo : -50000000 ≤ trim) (hhi : trim ≤ 50000000) :
    (trimmedPeriod x trim : Int) = (nominalPeriod x : Int) * (1000000000 + trim) / 1000000000 ∧
      95 * nominalPeriod x ≤ 100 * trimmedPeriod x trim ∧ 100 * trimmedPeriod x trim ≤ 105 * nominalPeriod x := by
  cases x <;> simp only [trimmedPeriod, nominalPeriod] <;> omega

/-- The slew part is 500 ppm of the nominal period, rounded toward zero (R2). -/
theorem slewPart_le (x : Source) : 10000 * slewPart x ≤ 5 * nominalPeriod x := by
  cases x <;> simp only [slewPart, nominalPeriod] <;> omega

/-- The applied part never overshoots the remainder (R17). -/
theorem appliedSlew_no_overshoot (x : Source) (m : Int) :
    (0 < m → 0 ≤ m - appliedSlew x m) ∧ (m < 0 → m - appliedSlew x m ≤ 0) := by
  unfold appliedSlew
  split
  · omega
  · split <;> omega

end Sys2Proof.Machine

namespace Sys2Proof.Proofs

open Sys2Proof.Machine

/-- Settles O27, from the bounds of the trimmed period and of the slew part of the driving source. -/
theorem advanceAmount : Obligations.AdvanceAmount := by
  unfold Obligations.AdvanceAmount
  intro s htrims x
  obtain ⟨hlo, hhi⟩ := htrims x
  obtain ⟨hperiod, hmin, hmax⟩ := trimmedPeriod_bounds x hlo hhi
  have hpart := slewPart_le x
  have happlied : (nextSlew s).natAbs = min s.count.slew.natAbs (slewPart x) := appliedSlew_natAbs _ _
  have hnext : nextAdvance s = ((trimmedPeriod x (s.sup.trims.get x) : Int) + nextSlew s).toNat := rfl
  obtain ⟨hpos, hneg⟩ := appliedSlew_no_overshoot x s.count.slew
  refine ⟨?_, ?_, ?_, happlied, sub_appliedSlew_natAbs x s.count.slew, hpos, hneg⟩
  · rw [← hperiod]; omega
  · omega
  · omega

end Sys2Proof.Proofs
end

section
/-! Resets, supplies and the retained domain (R20, R168 to R177), and the state after cold start and main reset. -/

namespace Sys2Proof.Machine

/-! ### The values of a reset -/

/-- The main domain runs exactly with VMAIN operating and RESETn released (R173). -/
theorem running_iff (s : State) : s.running = true ↔ s.power.supply = .operating ∧ s.power.resetLow = false := by
  simp [State.running]

theorem not_running_of_supply {s : State} (h : s.power.supply ≠ .operating) : s.running = false := by
  simp [State.running, h]

theorem not_running_of_resetLow {s : State} (h : s.power.resetLow = true) : s.running = false := by
  simp [State.running, h]

/-- The cleared main domain has the main-reset values of the cold-start retained state (R20, R174). -/
theorem mainDomainCleared_values (s t : State) (ht : t = { mainDomainCleared s with retained := some .coldStart }) :
    MainResetValues ⟨0, 0, false, ⟨0, 0, 0⟩, [.xo, .rc]⟩ { s with retained := some .coldStart } t := by
  subst ht
  exact ⟨rfl, rfl, mainDomainCleared_timer s, rfl, mainDomainCleared_box s, rfl, mainDomainCleared_pin s,
    mainDomainCleared_input s, rfl, rfl, rfl, mainDomainCleared_port s, rfl, rfl⟩

/-- The main reset gives every block its values, read from the retained domain (R174). -/
theorem mainReset_values {r : Retained} {s : State} (h : s.retained = some r) : MainResetValues r s (mainReset s) := by
  have e : s.retained.getD .coldStart = r := by rw [h]; rfl
  refine ⟨?_, ?_, mainDomainCleared_timer s, rfl, mainDomainCleared_box s, rfl, mainDomainCleared_pin s,
    mainDomainCleared_input s, rfl, rfl, rfl, mainDomainCleared_port s, rfl, rfl⟩
  · rw [mainReset_count, e]
  · unfold mainReset
    rw [e]

theorem resetIfEnded_of_running {s : State} (h : s.running = true) : resetIfEnded s = mainReset s := by
  rw [resetIfEnded, if_pos h]

theorem resetIfEnded_of_not_running {s : State} (h : s.running = false) : resetIfEnded s = s := by
  simp [resetIfEnded, h]

/-! ### VMAIN_RISE -/

/-- A cold start is due exactly while the retained state is lost (R169, R177). -/
theorem retainedRise_of_some {s : State} (h : s.retained ≠ none) : retainedRise s = s := by
  rw [retainedRise, if_pos (Option.isSome_iff_ne_none.2 h)]

theorem retainedRise_of_none {s : State} (h : s.retained = none) :
    retainedRise s = { mainDomainCleared s with retained := some .coldStart } := by
  rw [retainedRise, if_neg (by simp [h])]

theorem exec_vmainRise_of_low {s : State} (h : s.power.supply = .low) :
    exec .vmainRise s = .next (retainedRise (withSupply (.powerUp 0) s)) := by
  show Host.Outcome.next _ = _
  rw [h]

theorem exec_vmainRise_of_powerUp {e : Nat} {s : State} (h : s.power.supply = .powerUp e) :
    exec .vmainRise s = .next (withSupply (.powerUp 0) s) := by
  show Host.Outcome.next _ = _
  rw [h]

theorem exec_vmainRise_of_absent {s : State} (h : s.power.supply = .absent) : exec .vmainRise s = .next s := by
  show Host.Outcome.next _ = _
  rw [h]

/-! ### The causes of a main-reset condition -/

theorem withSupply_frame (x : Supply) (s : State) : OnlyChanges [.power] s (withSupply x s) := withPower_frame _ _

theorem exec_powerUp_of_absent {s : State} (h : s.power.supply = .absent) :
    exec (.mainResetConditionBegin .powerUp) s = .next (withSupply .low s) := by
  show Host.Outcome.next _ = _
  rw [h]

theorem exec_brownOut {s : State} (h : s.power.supply = .operating ∨ ∃ e, s.power.supply = .powerUp e) :
    exec (.mainResetConditionBegin .brownOut) s = .next (withSupply .low s) := by
  show Host.Outcome.next _ = _
  rcases h with h | ⟨e, h⟩ <;> rw [h]

/-- While a main-reset condition holds, an event of the main domain is not taken (R173). -/
theorem whileRunning_of_not_running {f : State → State} {s : State} (h : s.running = false) :
    whileRunning f s = s := by
  simp [whileRunning, h]

theorem exec_of_not_running {c : Instr} {s : State} {f : State → State} (h : s.running = false)
    (e : exec c s = .next (whileRunning f s)) : exec c s = .next s := by
  rw [e, whileRunning_of_not_running h]

/-! ### The end of a main-reset condition -/

theorem exec_powerUpDelayEnd_of_over {e : Nat} {s : State} (h : s.power.supply = .powerUp e)
    (he : 2000000 * 4294967296 ≤ e) : exec .powerUpDelayEnd s = .next (resetIfEnded (withSupply .operating s)) := by
  show Host.Outcome.next _ = _
  simp only [h]
  rw [if_pos (show powerUpDelay ≤ e from he)]

theorem exec_powerUpDelayEnd_of_running {e : Nat} {s : State} (h : s.power.supply = .powerUp e)
    (he : e < 2000000 * 4294967296) : exec .powerUpDelayEnd s = .next s := by
  show Host.Outcome.next _ = _
  simp only [h]
  rw [if_neg (show ¬powerUpDelay ≤ e from Nat.not_le.2 he)]

/-- RESETn released (R173). -/
def withResetHigh (s : State) : State := { s with power := { s.power with resetLow := false } }

theorem exec_resetnRelease_of_low {s : State} (h : s.power.resetLow = true) :
    exec .resetnRelease s = .next (resetIfEnded (withResetHigh s)) := by
  show Host.Outcome.next _ = _
  rw [if_pos h]
  rfl

theorem exec_resetnRelease_of_high {s : State} (h : s.power.resetLow = false) : exec .resetnRelease s = .next s := by
  show Host.Outcome.next _ = _
  rw [if_neg (by simp [h])]

end Sys2Proof.Machine

namespace Sys2Proof.Proofs

open Sys2Proof.Machine

/-- Settles O58. -/
theorem mainResetCondition : Obligations.MainResetCondition := by
  unfold Obligations.MainResetCondition
  intro s cold begins
  have to_supply : ∀ {c : Instr} {x : Supply}, x ≠ .operating → exec c s = .next (withSupply x s) →
      begins c x s.retained := fun hx e =>
    ⟨_, e, (withSupply_frame _ s).mono (by simp), rfl, rfl, not_running_of_supply hx⟩
  refine ⟨fun h => ⟨to_supply (by simp) (exec_powerUp_of_absent h), exec_vmainRise_of_absent h⟩,
    fun h => to_supply (by simp) (exec_brownOut h), fun h hr => ?_, fun h hr => ?_,
    fun e h => to_supply (by simp) (exec_vmainRise_of_powerUp h), ?_, ?_⟩
  · refine to_supply (by simp) ?_
    rw [exec_vmainRise_of_low h, retainedRise_of_some (s := withSupply (.powerUp 0) s) hr]
  · rw [exec_vmainRise_of_low h, retainedRise_of_none (s := withSupply (.powerUp 0) s) hr]
    exact ⟨_, rfl, rfl, not_running_of_supply (by simp [withSupply]),
      mainDomainCleared_values (withSupply (.powerUp 0) s) _ rfl⟩
  · exact ⟨_, rfl, withPower_frame _ s, rfl, not_running_of_resetLow rfl⟩
  · rintro hrun c (⟨l, rfl⟩ | rfl | ⟨p, rfl⟩ | rfl | rfl | ⟨w, rfl⟩ | ⟨w, l, rfl⟩ | ⟨w, rfl⟩ | ⟨w, rfl⟩ | rfl)
    all_goals exact exec_of_not_running hrun rfl

/-- Settles O59: the last cause to end brings the main reset. -/
theorem mainResetRestores : Obligations.MainResetRestores := by
  unfold Obligations.MainResetRestores
  intro r s hr
  refine ⟨fun e h he => ⟨_, exec_powerUpDelayEnd_of_over h he, ?_⟩, fun e h he => exec_powerUpDelayEnd_of_running h he,
    fun h => ⟨_, exec_resetnRelease_of_low h, ?_⟩, exec_resetnRelease_of_high⟩
  · cases hlow : s.power.resetLow with
    | false =>
      have hrun : (withSupply .operating s).running = true := (running_iff _).2 ⟨rfl, hlow⟩
      rw [resetIfEnded_of_running hrun]
      exact ⟨by simp [withSupply, hlow], fun _ => mainReset_values (s := withSupply .operating s) hr, by simp⟩
    | true =>
      have hrun : (withSupply .operating s).running = false := not_running_of_resetLow hlow
      rw [resetIfEnded_of_not_running hrun]
      exact ⟨by simp [withSupply, hlow], by simp, fun _ => withSupply_frame _ s⟩
  · by_cases hop : s.power.supply = .operating
    · have hrun : (withResetHigh s).running = true := (running_iff _).2 ⟨hop, rfl⟩
      rw [resetIfEnded_of_running hrun]
      exact ⟨by simp [withResetHigh, hop], fun _ => mainReset_values (s := withResetHigh s) hr, fun c => absurd hop c⟩
    · have hrun : (withResetHigh s).running = false := not_running_of_supply hop
      rw [resetIfEnded_of_not_running hrun]
      exact ⟨by simp [withResetHigh, hop], fun c => absurd c hop, fun _ => withPower_frame _ s⟩

end Sys2Proof.Proofs

namespace Sys2Proof.Machine

/-! ### The retained domain -/

theorem withRetained_frame (r : Option Retained) (s : State) : OnlyChanges [.retained] s { s with retained := r } := by
  simp [OnlyChanges]

theorem exec_vmainLoss {s : State} (h : s.power.supply ≠ .absent) : exec .vmainLoss s =
    .next { mainDomainCleared s with power := { s.power with supply := .absent, absence := true } } := by
  show Host.Outcome.next _ = _
  rw [if_neg h]

/-- The retained count after an LP cycle, held at the greatest time value (R170). -/
theorem Retained.tick_eq (r : Retained) : r.tick =
    if r.time * fine + r.residue + lpPeriod < countLimit then
      { r with
        time := (r.time * fine + r.residue + lpPeriod) / fine
        residue := (r.time * fine + r.residue + lpPeriod) % fine }
    else { r with time := maxTime, residue := 0 } := by
  rcases Nat.lt_or_ge (r.time * fine + r.residue + lpPeriod) countLimit with h | h
  · rw [Retained.tick_of_lt h, if_pos h]
  · rw [Retained.tick_of_le h, if_neg (Nat.not_lt.2 h)]

theorem exec_lpCycle (s : State) : exec .lpCycle s = .next { s with retained := s.retained.map Retained.tick } := rfl

theorem exec_retainedStateLoss {s : State} (h : s.power.supply = .absent ∨ s.power.supply = .low) :
    exec .retainedStateLoss s = .next { s with retained := none } := by
  show Host.Outcome.next _ = _
  rcases h with h | h <;> rw [h]

theorem exec_coldStart (s : State) : exec .coldStart s = .next (retainedRise s) := rfl

end Sys2Proof.Machine

namespace Sys2Proof.Proofs

open Sys2Proof.Machine

/-- Settles O60. -/
theorem retainedDomain : Obligations.RetainedDomain := by
  unfold Obligations.RetainedDomain
  intro s
  refine ⟨fun h => ⟨_, exec_vmainLoss h, rfl, rfl, rfl, not_running_of_supply (by simp), fun g => ?_⟩,
    fun r hr => ⟨_, exec_lpCycle s, withRetained_frame _ s, ?_⟩, fun hr => ?_,
    fun h => ⟨_, exec_retainedStateLoss h, withRetained_frame _ s, rfl⟩, fun hr => ?_, fun hr => ?_⟩
  · have hport := mainDomainCleared_port s g
    exact ⟨(congrArg Port.attached hport :), (congrArg Port.hrst hport :)⟩
  · show s.retained.map Retained.tick = _
    rw [hr, Option.map_some, Retained.tick_eq]
    rfl
  · rw [exec_lpCycle, hr, Option.map_none, ← hr]
  · rw [exec_coldStart, retainedRise_of_none hr]
    exact ⟨_, rfl, rfl, mainDomainCleared_values s _ rfl⟩
  · rw [exec_coldStart, retainedRise_of_some hr]

end Sys2Proof.Proofs

namespace Sys2Proof.Machine

/-! ### The state after cold start and main reset -/

theorem reset_timer (i : Slot) : State.reset.timer i = none := by
  simp [State.reset, State.timer, Vector.get_eq_getElem]

theorem reset_box (h : HostId) : State.reset.box h = .initial := by cases h <;> rfl

theorem reset_pin (p : PinId) : State.reset.pin p = none := by simp [State.reset, State.pin]

theorem reset_input (i : CapId) : State.reset.input i = .initial := by simp [State.reset, State.input]

theorem reset_port (h : HostId) : State.reset.port h = .initial := by cases h <;> rfl

theorem reset_allocationCount (h : HostId) : allocationCount State.reset h = 0 := by
  simp [allocationCount, reset_timer]

theorem reset_queueInv : QueueInv State.reset := fun h => by
  rw [reset_box]
  simp [NoticeBox.initial]

theorem reset_systemNoticeInv : SystemNoticeInv State.reset := by
  refine ⟨fun h n hn => ?_, fun i t ht => ?_, fun i h c hc => ?_⟩
  · rw [reset_box] at hn
    cases hn
  · rw [reset_timer] at ht
    cases ht
  · simp [reset_input, CapInput.initial] at hc

theorem reset_authInv : AuthInv State.reset := by simp [AuthInv, State.reset]

theorem reset_captureInv : CaptureInv State.reset := by
  refine ⟨Nat.zero_le _, Nat.zero_le _, fun r hr => (by cases hr), fun i h hs => ?_, fun i h => ?_⟩
  · simp [reset_input, subscribed, CapInput.initial] at hs
  · simp [reset_input, CapInput.initial]

theorem reset_poolInv : PoolInv State.reset := by
  refine ⟨fun h => ?_, fun i t ht => ?_, fun p r hr => ?_⟩
  · rw [reset_allocationCount]
    exact Nat.zero_le _
  · rw [reset_timer] at ht
    cases ht
  · rw [reset_pin] at hr
    cases hr

theorem reset_sequenceInv : SequenceInv State.reset := by
  refine ⟨Nat.zero_le _, fun i t x ht => ?_⟩
  rw [reset_timer] at ht
  cases ht

theorem reset_countInv : CountInv State.reset :=
  (countInv_iff _).2 ⟨timeInRange_zero, Nat.zero_lt_succ _, slewInRange_of_zero rfl, fun r hr => by
    cases hr
    exact timeInRange_zero⟩

/-- The list and the trims of a cold start are in range (R168). -/
theorem coldStart_settingsOk : SettingsOk Retained.coldStart.list Retained.coldStart.trims :=
  ⟨by simp [Retained.coldStart], by simp [Retained.coldStart], fun x => by cases x <;> decide⟩

theorem reset_supervisorInv : SupervisorInv State.reset := by
  refine ⟨coldStart_settingsOk, by decide, by decide, by decide, fun x hx => (by cases hx), fun r hr => ?_,
    fun _ => rfl, fun _ r hr => ?_, fun h => (by cases h), fun _ => rfl⟩
  · cases hr
    exact coldStart_settingsOk
  · cases hr
    exact ⟨rfl, rfl⟩

theorem reset_portInv : PortInv State.reset := by
  refine ⟨fun h _ => ?_, fun h => ⟨fun ⟨op, q, e⟩ => ?_, fun ⟨w, e, _⟩ => by cases e⟩, fun w e => by cases e⟩
  · rw [reset_port]
    rfl
  · rw [reset_port] at e
    cases e

end Sys2Proof.Machine

namespace Sys2Proof.Proofs

open Sys2Proof.Machine

/-- Settles O2, block by block. -/
theorem resetMeetsInvariants : Obligations.ResetMeetsInvariants := by
  unfold Obligations.ResetMeetsInvariants
  exact ⟨reset_queueInv, reset_systemNoticeInv, reset_authInv, reset_captureInv, reset_poolInv, reset_sequenceInv,
    reset_countInv, reset_supervisorInv, reset_portInv⟩

end Sys2Proof.Proofs
end

section
/-! A sorted list filtered: insertion sort keeps the order of equal elements, so filtering and sorting commute. -/

namespace Sys2Proof

section FilterSort

variable {α : Type} {r : α → α → Prop} [DecidableRel r] (p : α → Bool)

theorem orderedInsert_of_forall_rel {x : α} {l : List α} (h : ∀ y ∈ l, r x y) : l.orderedInsert r x = x :: l := by
  cases l with
  | nil => rfl
  | cons y l => exact List.orderedInsert_cons_of_le r l (h y (by simp))

theorem filter_orderedInsert [IsTrans α r] (x : α) {l : List α} (hl : l.Pairwise r) :
    (l.orderedInsert r x).filter p = if p x then (l.filter p).orderedInsert r x else l.filter p := by
  induction l with
  | nil => cases hx : p x <;> simp [hx]
  | cons y l ih =>
    obtain ⟨hy, hl⟩ := List.pairwise_cons.1 hl
    by_cases hxy : r x y
    · have hfirst : ∀ z ∈ (y :: l).filter p, r x z := fun z hz => by
        rcases List.mem_cons.1 (List.mem_filter.1 hz).1 with rfl | hz
        · exact hxy
        · exact trans_of r hxy (hy z hz)
      rw [List.orderedInsert_cons_of_le r l hxy, orderedInsert_of_forall_rel hfirst, List.filter_cons]
    · rw [List.orderedInsert_of_not_le r l hxy, List.filter_cons, ih hl]
      by_cases hpy : p y = true
      · by_cases hpx : p x = true
        · simp [hpx, hpy, hxy]
        · simp [hpx, hpy]
      · simp [hpy]

theorem filter_insertionSort [IsTrans α r] [Std.Total r] (l : List α) :
    (l.insertionSort r).filter p = (l.filter p).insertionSort r := by
  induction l with
  | nil => rfl
  | cons x l ih =>
    rw [List.insertionSort_cons, filter_orderedInsert p x (List.pairwise_insertionSort r l), ih]
    by_cases hx : p x = true
    · simp [hx]
    · simp [hx]

end FilterSort

end Sys2Proof
end

section
/-! The deadline queue as a sorted list, and the entries that a count has reached (R61, R62, R76, R78). -/

namespace Sys2Proof.Machine

/-! ### The order of the queue -/

/-- The order of the deadline queue, as a relation (R61, R62). -/
abbrev Precedes (x y : Entry) : Prop := x.before y = true

theorem precedes_iff (x y : Entry) :
    Precedes x y ↔ x.deadline < y.deadline ∨ x.deadline = y.deadline ∧ x.seq ≤ y.seq := by
  simp [Precedes, Entry.before]

theorem Precedes.deadline_le {x y : Entry} (h : Precedes x y) : x.deadline ≤ y.deadline := by
  rw [precedes_iff] at h
  omega

theorem precedes_trans : IsTrans Entry Precedes := ⟨fun x y z hxy hyz => by
  rw [precedes_iff] at *
  omega⟩

theorem precedes_total : Std.Total Precedes := ⟨fun x y => by
  rw [precedes_iff, precedes_iff]
  omega⟩

theorem insertEntry_eq (x : Entry) (l : List Entry) :
    insertEntry x l = l.orderedInsert Precedes x := by
  induction l with
  | nil => rfl
  | cons y l ih =>
    rw [insertEntry, List.orderedInsert_cons, ih]

/-- The deadline queue is the insertion sort of the armed entries. -/
theorem deadlineQueue_eq (s : State) :
    deadlineQueue s = (armedEntries s).insertionSort Precedes := by
  rw [deadlineQueue, List.insertionSort]
  congr
  funext x l
  exact insertEntry_eq x l

theorem deadlineQueue_pairwise (s : State) : (deadlineQueue s).Pairwise Precedes := by
  have := precedes_trans
  have := precedes_total
  rw [deadlineQueue_eq]
  exact List.pairwise_insertionSort Precedes _

theorem deadlineQueue_perm (s : State) : (deadlineQueue s).Perm (armedEntries s) := by
  rw [deadlineQueue_eq]
  exact List.perm_insertionSort Precedes _

theorem deadlineQueue_filter (p : Entry → Bool) (s : State) :
    (deadlineQueue s).filter p = ((armedEntries s).filter p).insertionSort Precedes := by
  have := precedes_trans
  have := precedes_total
  rw [deadlineQueue_eq]
  exact filter_insertionSort p _

/-! ### The armed entries -/

theorem entryOf_slot {s : State} {i : Slot} {e : Entry} (h : entryOf s i = some e) : e.slot = i := by
  simp only [entryOf, Option.bind_eq_some_iff, Option.map_eq_some_iff] at h
  obtain ⟨t, -, x, -, rfl⟩ := h
  rfl

/-- The entry of a slot names the record and the arming that it stands for. -/
theorem entryOf_eq_some {s : State} {i : Slot} {e : Entry} (h : entryOf s i = some e) :
    ∃ t x, s.timer i = some t ∧ t.armed = some x ∧ x.deadline = e.deadline := by
  simp only [entryOf, Option.bind_eq_some_iff, Option.map_eq_some_iff] at h
  obtain ⟨t, ht, x, hx, rfl⟩ := h
  exact ⟨t, x, ht, hx, rfl⟩

theorem mem_armedEntries {s : State} {e : Entry} : e ∈ armedEntries s ↔ entryOf s e.slot = some e := by
  simp only [armedEntries, List.mem_filterMap]
  constructor
  · rintro ⟨i, -, h⟩
    rwa [entryOf_slot h]
  · exact fun h => ⟨e.slot, List.mem_finRange _, h⟩

/-- No two armed entries name one slot. -/
theorem armedEntries_slots (s : State) : (armedEntries s).Pairwise fun x y => x.slot ≠ y.slot := by
  refine List.Pairwise.filterMap _ (fun i j hij x hx y hy => ?_) (List.nodup_finRange 48)
  rwa [entryOf_slot hx, entryOf_slot hy]

theorem length_armedEntries (s : State) : (armedEntries s).length ≤ 48 :=
  (List.length_filterMap_le _ _).trans (by simp [allSlots])

/-- Only the records of the slots matter to the armed entries. -/
theorem entryOf_congr {s t : State} {i : Slot} (h : s.timer i = t.timer i) : entryOf s i = entryOf t i := by
  rw [entryOf, entryOf, h]

theorem armedEntries_congr {s t : State} (h : ∀ i, s.timer i = t.timer i) : armedEntries s = armedEntries t :=
  List.filterMap_congr fun i _ => entryOf_congr (h i)

/-! ### The reached entries -/

theorem mem_reachedEntries {now : Nat} {s : State} {e : Entry} :
    e ∈ reachedEntries now s ↔ entryOf s e.slot = some e ∧ e.deadline ≤ now := by
  rw [reachedEntries, List.mem_filter, (deadlineQueue_perm s).mem_iff, mem_armedEntries, decide_eq_true_iff]

theorem reachedEntries_slots (now : Nat) (s : State) :
    (reachedEntries now s).Pairwise fun x y => x.slot ≠ y.slot :=
  (((deadlineQueue_perm s).pairwise_iff fun h => h.symm).2 (armedEntries_slots s)).filter _

theorem length_reachedEntries (now : Nat) (s : State) : (reachedEntries now s).length ≤ 48 :=
  (List.length_filter_le _ _).trans ((deadlineQueue_perm s).length_eq ▸ length_armedEntries s)

theorem reachedEntries_congr {now : Nat} {s t : State} (h : ∀ i, s.timer i = t.timer i) :
    reachedEntries now s = reachedEntries now t := by
  rw [reachedEntries, reachedEntries, deadlineQueue, deadlineQueue, armedEntries_congr h]

/-- The first reached entry is the head of the queue (R65, R76). -/
theorem head_of_reachedEntries {now : Nat} {s : State} {e : Entry} {l : List Entry}
    (h : reachedEntries now s = e :: l) : (deadlineQueue s).head? = some e ∧ e.deadline ≤ now := by
  have hsorted := deadlineQueue_pairwise s
  have he : e ∈ reachedEntries now s := by simp [h]
  obtain ⟨-, hle⟩ := mem_reachedEntries.1 he
  refine ⟨?_, hle⟩
  rw [reachedEntries] at h he
  cases hq : deadlineQueue s with
  | nil => simp [hq] at h
  | cons y q =>
    rw [hq] at h he hsorted
    have hy : y.deadline ≤ now := by
      rcases List.mem_cons.1 (List.mem_filter.1 he).1 with rfl | hmem
      · exact hle
      · exact ((List.pairwise_cons.1 hsorted).1 e hmem).deadline_le.trans hle
    rw [List.filter_cons_of_pos (by simpa using hy)] at h
    simp [(List.cons.inj h).1]

/-- Without a reached entry the head of the queue, if any, is later than the count. -/
theorem head_of_reachedEntries_nil {now : Nat} {s : State} {e : Entry} (h : reachedEntries now s = [])
    (he : (deadlineQueue s).head? = some e) : ¬e.deadline ≤ now := by
  have := List.filter_eq_nil_iff.1 h e (List.mem_of_mem_head? he)
  simpa using this

/-- A slot that leaves the reached entries leaves the others in their order. -/
theorem reachedEntries_of_left {now : Nat} {s t : State} {i : Slot} (hne : ∀ j, j ≠ i → t.timer j = s.timer j)
    (hi : ∀ e, entryOf t i = some e → ¬e.deadline ≤ now) :
    reachedEntries now t = (reachedEntries now s).filter fun e => e.slot ≠ i := by
  have hcommute : ∀ l : List Entry, (l.insertionSort Precedes).filter (fun e => e.slot ≠ i) =
      (l.filter fun e => e.slot ≠ i).insertionSort Precedes := by
    have := precedes_trans
    have := precedes_total
    exact filter_insertionSort _
  rw [reachedEntries, reachedEntries, deadlineQueue_filter, deadlineQueue_filter, hcommute, armedEntries, armedEntries,
    List.filter_filterMap, List.filter_filterMap, List.filter_filterMap]
  congr 1
  refine List.filterMap_congr fun j _ => ?_
  by_cases hj : j = i
  · subst hj
    have hleft : (entryOf t j).filter (fun e => decide (e.deadline ≤ (now : Int))) = none := by
      simpa [Option.filter_eq_none_iff] using hi
    have hright : ∀ o : Option Entry, (∀ e, o = some e → e.slot = j) → o.filter (fun e => decide (e.slot ≠ j)) = none :=
      fun o ho => by simpa [Option.filter_eq_none_iff] using ho
    rw [hleft, hright]
    exact fun e he => entryOf_slot (Option.filter_eq_some_iff.1 he).1
  · rw [entryOf_congr (hne j hj)]
    cases he : entryOf s j with
    | none => rfl
    | some e =>
      have hslot : e.slot ≠ i := entryOf_slot he ▸ hj
      by_cases hle : e.deadline ≤ now
      · simp [Option.filter, hle, hslot]
      · simp [Option.filter, hle]

end Sys2Proof.Machine
end

section
/-! Expiries in queue order, as a fold over the reached entries: what they leave of the records, the notice boxes and
the pins (R67 to R72, R76, R78, R80). -/

namespace Sys2Proof.Machine

/-! ### One expiry of a reached entry -/

/-- The TIMER notice that one expiry of entry `e` posts to host `g`, if any, under the conditions of `t` (R67 part 3,
R68). -/
def noticeTo (g : HostId) (late : Bool) (t u : State) (e : Entry) : Option Notice :=
  ((u.timer e.slot).filter fun x => x.notify && decide (x.owner = g)).map fun x =>
    expiryNotice t e.slot x e.deadline (min 65535 (x.fire + 1)) late

/-- The action of one expiry of entry `e` at pin `p`, if any, with its slot (R67 part 2). -/
def actionAt (p : PinId) (u : State) (e : Entry) : Option (PinAction × Slot) :=
  (((u.timer e.slot).bind (·.action)).filter fun a => a.pin = p).map fun a => (a.action, e.slot)

/-- A notice posted to a box, if there is one. -/
def postOption (b : NoticeBox) (n : Option Notice) : NoticeBox := n.elim b b.post

/-- An action applied to a pin's record at count `now`, if there is one (R127, R128). -/
def applyOption (now : Nat) (r : Option PinRecord) (a : Option (PinAction × Slot)) : Option PinRecord :=
  a.elim r fun a => r.map fun r => r.apply a.1 (.slot a.2) now

theorem reachedNotices_eq (g : HostId) (late : Bool) (now : Nat) (t u : State) :
    reachedNotices g late now t u = (reachedEntries now u).filterMap (noticeTo g late t u) := rfl

theorem reachedActions_eq (p : PinId) (now : Nat) (u : State) :
    reachedActions p now u = (reachedEntries now u).filterMap (actionAt p u) := rfl

/-- A record settled is no longer ARMED, or has a deadline later than the count (R70, R71). -/
theorem settle_later {t : Timer} {x y : Arming} {now : Nat} (hp : ∀ p, t.kind = .periodic p → 1 ≤ p)
    (h : (t.settle x now).armed = some y) : now < y.deadline := by
  unfold Timer.settle at h
  split at h
  · cases h
  · next p hk =>
    obtain ⟨-, hlater, -, -⟩ := catchUp_spec (hp p hk) (rfl : catchUp (x.deadline + p) p now = (_, _))
    dsimp only at h
    split at h
    · cases h
    · cases h
      exact hlater

@[simp] theorem settle_kind (t : Timer) (x : Arming) (now : Nat) : (t.settle x now).kind = t.kind := by
  unfold Timer.settle
  split
  · rfl
  · dsimp only
    split <;> rfl

theorem recognised_of_reached {t : Timer} {x : Arming} {now : Nat} (hx : t.armed = some x) (h : x.deadline ≤ now) :
    recognised now t = Timer.settle { t with fire := min 65535 (t.fire + 1) } x now := by
  unfold recognised
  simp only [hx]
  rw [if_pos h]

theorem recognised_of_later {t : Timer} {now : Nat} (h : ∀ x, t.armed = some x → ¬x.deadline ≤ now) :
    recognised now t = t := by
  unfold recognised
  split
  · next x hx => rw [if_neg (h x hx)]
  · rfl

@[simp] theorem recognised_kind (now : Nat) (t : Timer) : (recognised now t).kind = t.kind := by
  unfold recognised
  split
  · split
    · exact settle_kind _ _ _
    · rfl
  · rfl

@[simp] theorem movedBy_kind (d : Int) (t : Timer) : (movedBy d t).kind = t.kind := by
  unfold movedBy
  split <;> rfl

/-- Operations on the records that keep their kinds keep the periods positive. -/
theorem PeriodsPositive.of_map {s t : State} (hs : PeriodsPositive s) {f : Timer → Timer}
    (hf : ∀ x, (f x).kind = x.kind) (ht : ∀ i, t.timer i = (s.timer i).map f) : PeriodsPositive t := by
  intro i y p hy hk
  rw [ht i, Option.map_eq_some_iff] at hy
  obtain ⟨x, hx, rfl⟩ := hy
  exact hs i x p hx (hf x ▸ hk)

section ExpireEntry

variable {u : State} {e : Entry} {now : Nat} (late : Bool)

/-- The records after one expiry (R67, R70, R71). -/
theorem expire_timer_of_reached (he : entryOf u e.slot = some e) (hle : e.deadline ≤ now) (i : Slot) :
    (expire e.slot late now u).timer i = if i = e.slot then (u.timer i).map (recognised now) else u.timer i := by
  obtain ⟨t, x, ht, hx, hd⟩ := entryOf_eq_some he
  rw [expire_timer e.slot late now u ht hx]
  by_cases hi : i = e.slot
  · rw [if_pos hi, if_pos hi, hi, ht, Option.map_some, recognised_of_reached hx (by omega)]
  · rw [if_neg hi, if_neg hi]

theorem expire_nextSeq (i : Slot) : (expire i late now u).pool.nextSeq = u.pool.nextSeq := by
  unfold expire
  split
  · rfl
  · split
    · rfl
    · rw [State.setTimer_nextSeq]
      split <;> split <;> simp

/-- One expiry of an ARMED record: the action, the notice, the record settled (R67). -/
theorem expire_of_armed {i : Slot} {x : Timer} {a : Arming} (hx : u.timer i = some x) (ha : x.armed = some a) :
    ∃ acted, acted = x.action.elim u (fun y => applyAction y.pin y.action (.slot i) u) ∧
      expire i late now u =
        (if x.notify then post x.owner (timerNotice u i { x with fire := min 65535 (x.fire + 1) }
          (timeValue a.deadline) late) acted else acted).setTimer i
          (some (Timer.settle { x with fire := min 65535 (x.fire + 1) } a now)) := by
  refine ⟨_, rfl, ?_⟩
  unfold expire
  simp only [hx, ha]
  cases x.action <;> rfl

theorem noticeTo_of_timer {g : HostId} {t : State} {x : Timer} (hx : u.timer e.slot = some x) :
    noticeTo g late t u e = if x.notify = true ∧ x.owner = g
      then some (expiryNotice t e.slot x e.deadline (min 65535 (x.fire + 1)) late) else none := by
  by_cases h : x.notify = true ∧ x.owner = g
  · simp [noticeTo, hx, Option.filter, h]
  · have hfilter : (x.notify && decide (x.owner = g)) = false := by simpa using h
    simp [noticeTo, hx, Option.filter, hfilter, h]

theorem actionAt_of_timer {p : PinId} {x : Timer} {y : PinUse} (hx : u.timer e.slot = some x)
    (hy : x.action = some y) : actionAt p u e = if y.pin = p then some (y.action, e.slot) else none := by
  by_cases h : y.pin = p
  · simp [actionAt, hx, hy, Option.filter, h]
  · simp [actionAt, hx, hy, Option.filter, h]

/-- The boxes after one expiry (R67 part 3, R89). -/
theorem expire_box {t : State} (he : entryOf u e.slot = some e) (hsup : t.sup = u.sup) (hcount : t.count = u.count)
    (g : HostId) : (expire e.slot late now u).box g =
      if u.attached g = true then postOption (u.box g) (noticeTo g late t u e) else u.box g := by
  obtain ⟨x, a, hx, ha, hd⟩ := entryOf_eq_some he
  obtain ⟨acted, hacted, heq⟩ := expire_of_armed (now := now) late hx ha
  have hbox : acted.box g = u.box g := by cases h : x.action <;> simp [hacted, h, State.box]
  have hatt : ∀ h, acted.attached h = u.attached h := fun h => by
    cases h' : x.action <;> simp [hacted, h', State.attached, State.port]
  have hnotice : timerNotice u e.slot { x with fire := min 65535 (x.fire + 1) } (timeValue a.deadline) late =
      expiryNotice t e.slot x e.deadline (min 65535 (x.fire + 1)) late := by
    simp [timerNotice, expiryNotice, conditionFlags, holdover, hsup, hcount, hd]
  rw [heq, State.setTimer_box, hnotice, noticeTo_of_timer late hx]
  cases hn : x.notify with
  | false => simp [postOption, hbox]
  | true =>
    rw [if_pos rfl, post_box, hatt, hbox]
    by_cases hg : x.owner = g
    · subst hg
      simp [postOption, hbox]
    · have hg' : ¬g = x.owner := fun c => hg c.symm
      simp [postOption, hg, hg']

/-- The pins after one expiry (R67 part 2). -/
theorem expire_pin (he : entryOf u e.slot = some e) (p : PinId) :
    (expire e.slot late now u).pin p = applyOption u.count.time (u.pin p) (actionAt p u e) := by
  obtain ⟨x, a, hx, ha, hd⟩ := entryOf_eq_some he
  obtain ⟨acted, hacted, heq⟩ := expire_of_armed (now := now) late hx ha
  have hpin : (expire e.slot late now u).pin p = acted.pin p := by
    rw [heq, State.setTimer_pin]
    split
    · rw [post_pin]
    · rfl
  rw [hpin, hacted]
  cases hy : x.action with
  | none => simp [actionAt, hx, hy, applyOption]
  | some y =>
    rw [Option.elim_some, applyAction_pin]
    rw [actionAt_of_timer hx hy]
    by_cases hp : y.pin = p
    · subst hp
      simp [applyOption]
    · have hp' : ¬p = y.pin := fun c => hp c.symm
      simp [applyOption, hp, hp']

end ExpireEntry

/-! ### The expiries of all reached entries -/

/-- A record settled at a count is not reached by it again (R71). -/
theorem recognised_recognised {x : Timer} (now : Nat) (hp : ∀ p, x.kind = .periodic p → 1 ≤ p) :
    recognised now (recognised now x) = recognised now x := by
  by_cases h : ∀ a, x.armed = some a → ¬a.deadline ≤ now
  · rw [recognised_of_later h, recognised_of_later h]
  · push Not at h
    obtain ⟨a, ha, hle⟩ := h
    rw [recognised_of_reached ha hle]
    refine recognised_of_later fun y hy => ?_
    have hlater : (now : Int) < y.deadline :=
      settle_later (t := { x with fire := min 65535 (x.fire + 1) }) hp hy
    omega

/-- The state `v` after one expiry of every entry of `u` that `now` has reached, in queue order (R67, R76, R78). -/
structure Recognised (late : Bool) (now : Nat) (u v : State) : Prop where
  timer : ∀ i, v.timer i = (u.timer i).map (recognised now)
  nextSeq : v.pool.nextSeq = u.pool.nextSeq
  box : ∀ t : State, t.sup = u.sup → t.count = u.count → ∀ g, v.box g =
    if u.attached g = true then (reachedNotices g late now t u).foldl (fun b n => b.post n) (u.box g) else u.box g
  pin : ∀ p, v.pin p =
    (reachedActions p now u).foldl (fun r a => r.map fun r => r.apply a.1 (.slot a.2) u.count.time) (u.pin p)

/-- Without a reached entry nothing expires. -/
theorem Recognised.of_nil {late : Bool} {now : Nat} {u : State} (h : reachedEntries now u = []) :
    Recognised late now u u where
  timer i := by
    cases hx : u.timer i with
    | none => rfl
    | some x =>
      rw [Option.map_some, recognised_of_later]
      intro a ha hle
      have hmem : ⟨i, a.deadline, a.seq⟩ ∈ reachedEntries now u :=
        mem_reachedEntries.2 ⟨by simp [entryOf, hx, ha], hle⟩
      rw [h] at hmem
      cases hmem
  nextSeq := rfl
  box t _ _ g := by simp [reachedNotices_eq, h]
  pin p := by simp [reachedActions_eq, h]

section FirstEntry

variable {late : Bool} {now : Nat} {u : State} {e : Entry} {l : List Entry}

/-- After the expiry of the first reached entry the others are the reached ones, in the same order (R78). -/
theorem reachedEntries_expire (hp : PeriodsPositive u) (h : reachedEntries now u = e :: l) :
    reachedEntries now (expire e.slot late now u) = l := by
  have hmem : e ∈ reachedEntries now u := by simp [h]
  obtain ⟨he, hle⟩ := mem_reachedEntries.1 hmem
  have htimer := expire_timer_of_reached late he hle
  have hslots := reachedEntries_slots now u
  rw [h, List.pairwise_cons] at hslots
  obtain ⟨hslots, -⟩ := hslots
  rw [reachedEntries_of_left (s := u) (i := e.slot), h, List.filter_cons_of_neg (by simp), List.filter_eq_self]
  · exact fun y hy => by simpa using (hslots y hy).symm
  · intro j hj
    rw [htimer, if_neg hj]
  · intro y hy hyle
    obtain ⟨t, x, ht, hx, hd⟩ := entryOf_eq_some he
    obtain ⟨t', x', ht', hx', hd'⟩ := entryOf_eq_some hy
    rw [htimer, if_pos rfl, ht, Option.map_some, recognised_of_reached hx (by omega)] at ht'
    cases ht'
    have hlater : (now : Int) < x'.deadline :=
      settle_later (t := { t with fire := min 65535 (t.fire + 1) }) (fun p hk => hp e.slot t p ht hk) hx'
    omega

/-- One expiry leaves what the entries of other slots post and do. -/
theorem noticeTo_expire {g : HostId} {t : State} {y : Entry} (he : entryOf u e.slot = some e) (hle : e.deadline ≤ now)
    (hy : y.slot ≠ e.slot) : noticeTo g late t (expire e.slot late now u) y = noticeTo g late t u y := by
  rw [noticeTo, noticeTo, expire_timer_of_reached late he hle, if_neg hy]

theorem actionAt_expire {p : PinId} {y : Entry} (he : entryOf u e.slot = some e) (hle : e.deadline ≤ now)
    (hy : y.slot ≠ e.slot) : actionAt p (expire e.slot late now u) y = actionAt p u y := by
  rw [actionAt, actionAt, expire_timer_of_reached late he hle, if_neg hy]

theorem foldl_filterMap_cons {α β γ : Type} (f : α → Option β) (g : γ → β → γ) (x : α) (l : List α) (b : γ) :
    ((x :: l).filterMap f).foldl g b = (l.filterMap f).foldl g ((f x).elim b (g b)) := by
  cases h : f x <;> simp [h]

/-- The expiry of the first reached entry, then those of the others. -/
theorem Recognised.of_cons {v : State} (hp : PeriodsPositive u) (h : reachedEntries now u = e :: l)
    (hv : Recognised late now (expire e.slot late now u) v) : Recognised late now u v := by
  have hmem : e ∈ reachedEntries now u := by simp [h]
  obtain ⟨he, hle⟩ := mem_reachedEntries.1 hmem
  have hrest := reachedEntries_expire (late := late) hp h
  have hslots := reachedEntries_slots now u
  rw [h, List.pairwise_cons] at hslots
  have hother : ∀ y ∈ l, y.slot ≠ e.slot := fun y hy => (hslots.1 y hy).symm
  refine ⟨fun i => ?_, by rw [hv.nextSeq, expire_nextSeq], fun t hsup hcount g => ?_, fun p => ?_⟩
  · rw [hv.timer, expire_timer_of_reached late he hle]
    split
    · cases hx : u.timer i with
      | none => rfl
      | some x =>
        simp only [Option.map_some]
        rw [recognised_recognised now (hp i x · hx)]
    · rfl
  · have hatt : (expire e.slot late now u).attached g = u.attached g := by simp [State.attached, State.port]
    rw [hv.box t (by simpa using hsup) (by simpa using hcount), hatt, expire_box late he hsup hcount, reachedNotices_eq,
      reachedNotices_eq, hrest, h, foldl_filterMap_cons,
      List.filterMap_congr fun y hy => noticeTo_expire he hle (hother y hy)]
    split
    · rfl
    · rfl
  · rw [hv.pin, expire_pin late he, expire_count, reachedActions_eq, reachedActions_eq, hrest, h, foldl_filterMap_cons,
      List.filterMap_congr fun y hy => actionAt_expire he hle (hother y hy)]
    rfl

end FirstEntry

theorem expire_periodsPositive {late : Bool} {now : Nat} {u : State} {e : Entry} (hp : PeriodsPositive u)
    (he : entryOf u e.slot = some e) (hle : e.deadline ≤ now) : PeriodsPositive (expire e.slot late now u) := by
  intro i y p hy hk
  rw [expire_timer_of_reached late he hle] at hy
  split at hy
  · obtain ⟨x, hx, rfl⟩ := Option.map_eq_some_iff.1 hy
    exact hp i x p hx (recognised_kind now x ▸ hk)
  · exact hp i y p hy hk

/-- Head by head, every reached entry expires once (R76 part 1, R78). -/
theorem expireReached_recognised {late : Bool} {now n : Nat} {u : State} (hp : PeriodsPositive u)
    (hn : (reachedEntries now u).length ≤ n) : Recognised late now u (expireReached n late now u) := by
  induction n generalizing u with
  | zero => exact Recognised.of_nil (List.length_eq_zero_iff.1 (Nat.le_zero.1 hn))
  | succ n ih =>
    unfold expireReached
    cases h : reachedEntries now u with
    | nil =>
      split
      · next e he => rw [if_neg (head_of_reachedEntries_nil h he)]; exact Recognised.of_nil h
      · exact Recognised.of_nil h
    | cons e l =>
      obtain ⟨hhead, hle⟩ := head_of_reachedEntries h
      obtain ⟨he, -⟩ := mem_reachedEntries.1 (show e ∈ reachedEntries now u by simp [h])
      rw [hhead]
      simp only [hle, if_true]
      refine Recognised.of_cons hp h (ih (expire_periodsPositive hp he hle) ?_)
      rw [reachedEntries_expire hp h]
      simpa [h] using hn

end Sys2Proof.Machine
end

section
/-! A set or step of the count: the state before step recognition, step recognition, and the answers of SET_TIME and
STEP (R12 to R15, R76 to R80, R128, R129). -/

namespace Sys2Proof.Machine

/-! ### Step recognition -/

theorem reachedNotices_congr {g : HostId} {late : Bool} {now : Nat} {t u w : State}
    (h : ∀ i, u.timer i = w.timer i) : reachedNotices g late now t u = reachedNotices g late now t w := by
  rw [reachedNotices_eq, reachedNotices_eq, reachedEntries_congr h]
  exact List.filterMap_congr fun e _ => by rw [noticeTo, noticeTo, h]

theorem reachedActions_congr {p : PinId} {now : Nat} {u w : State} (h : ∀ i, u.timer i = w.timer i) :
    reachedActions p now u = reachedActions p now w := by
  rw [reachedActions_eq, reachedActions_eq, reachedEntries_congr h]
  exact List.filterMap_congr fun e _ => by rw [actionAt, actionAt, h]

theorem afterMove_timer (d : Int) (s : State) (i : Slot) :
    (afterMove d s).timer i = (s.timer i).map fun x => movedBy d (recognised s.count.time x) := by
  simp [afterMove, State.timer]

/-- The TIMER notices to host `g` of step recognition by `d`, from the count `before` to that of `t`, in the order they
are posted; `s` holds the records and the count before the step (R76, R78, R80). -/
def stepNotices (g : HostId) (d : Int) (s t : State) : List Notice :=
  reachedNotices g false s.count.time t s ++
    if 0 < d then reachedNotices g true t.count.time t (afterMove d s) else []

/-- The actions of step recognition by `d` at pin `p`, in the order they are taken (R76, R80). -/
def stepActions (p : PinId) (d : Int) (s t : State) : List (PinAction × Slot) :=
  reachedActions p s.count.time s ++ if 0 < d then reachedActions p t.count.time (afterMove d s) else []

/-- The stepped state `b` after the leftover expiries against the count `before` and the move by `d` (R76 parts 1
and 2). -/
def leftoverMoved (d : Int) (before : Nat) (b : State) : State := moveElapsed (· + d) (expireReached 48 false before b)

theorem leftoverMoved_frame (d : Int) (before : Nat) (b : State) :
    OnlyChanges [.pool, .pins, .notices] b (leftoverMoved d before b) :=
  (expireReached_onlyChanges 48 false before b).trans ((moveElapsed_frame _ _).mono (by simp))

/-- A step forward goes on to the forward expiries (R76 part 3). -/
theorem stepRecognition_of_pos {d : Int} (hd : 0 < d) (before : Nat) (b : State) :
    stepRecognition d before b = expireReached 48 true b.count.time (leftoverMoved d before b) := by
  obtain ⟨hcount, -⟩ := leftoverMoved_frame d before b
  rw [← hcount (by simp)]
  unfold stepRecognition
  exact if_pos hd

theorem stepRecognition_of_not_pos {d : Int} (hd : ¬0 < d) (before : Nat) (b : State) :
    stepRecognition d before b = leftoverMoved d before b := by
  unfold stepRecognition
  exact if_neg hd

section StepRecognition

variable {d : Int} {s b : State} (hp : PeriodsPositive s) (hb : ∀ i, b.timer i = s.timer i)

include hp hb

/-- The leftover expiries of a stepped state that holds the records of `s`. -/
theorem leftover_recognised : Recognised false s.count.time b (expireReached 48 false s.count.time b) :=
  expireReached_recognised (hp.of_map (f := id) (fun _ => rfl) fun i => by rw [hb, Option.map_id, id])
    (length_reachedEntries _ _)

theorem leftoverMoved_timer (i : Slot) : (leftoverMoved d s.count.time b).timer i = (afterMove d s).timer i := by
  rw [leftoverMoved, moveElapsed_add_timer, (leftover_recognised hp hb).timer, hb, afterMove_timer, Option.map_map]
  rfl

theorem leftoverMoved_box {t : State} (hsup : t.sup = b.sup) (hcount : t.count = b.count) (g : HostId) :
    (leftoverMoved d s.count.time b).box g = if b.attached g = true
      then (reachedNotices g false s.count.time t s).foldl (fun x n => x.post n) (b.box g) else b.box g := by
  rw [← reachedNotices_congr hb, ← (leftover_recognised hp hb).box t hsup hcount]
  rfl

theorem leftoverMoved_pin (p : PinId) : (leftoverMoved d s.count.time b).pin p =
    (reachedActions p s.count.time s).foldl (fun r a => r.map fun r => r.apply a.1 (.slot a.2) b.count.time)
      (b.pin p) := by
  rw [← reachedActions_congr hb, ← (leftover_recognised hp hb).pin]
  rfl

theorem leftoverMoved_periodsPositive : PeriodsPositive (leftoverMoved d s.count.time b) :=
  hp.of_map (f := fun x => movedBy d (recognised s.count.time x)) (fun x => by simp) fun i => by
    rw [leftoverMoved_timer hp hb, afterMove_timer]

/-- The forward expiries of a stepped state. -/
theorem forward_recognised : Recognised true b.count.time (leftoverMoved d s.count.time b)
    (expireReached 48 true b.count.time (leftoverMoved d s.count.time b)) :=
  expireReached_recognised (leftoverMoved_periodsPositive hp hb) (length_reachedEntries _ _)

/-- The records after step recognition (R76). -/
theorem stepRecognition_timer (i : Slot) : (stepRecognition d s.count.time b).timer i =
    (s.timer i).map (throughStep d s.count.time b.count.time) := by
  by_cases hd : 0 < d
  · rw [stepRecognition_of_pos hd, (forward_recognised hp hb).timer, leftoverMoved_timer hp hb, afterMove_timer,
      Option.map_map]
    congr
    funext x
    simp [throughStep, hd]
  · rw [stepRecognition_of_not_pos hd, leftoverMoved_timer hp hb, afterMove_timer]
    congr
    funext x
    simp [throughStep, hd]

theorem stepRecognition_nextSeq : (stepRecognition d s.count.time b).pool.nextSeq = b.pool.nextSeq := by
  have hseq : (leftoverMoved d s.count.time b).pool.nextSeq = b.pool.nextSeq := (leftover_recognised hp hb).nextSeq
  by_cases hd : 0 < d
  · rw [stepRecognition_of_pos hd, (forward_recognised hp hb).nextSeq, hseq]
  · rw [stepRecognition_of_not_pos hd, hseq]

/-- The boxes after step recognition (R69, R78). -/
theorem stepRecognition_box {t : State} (hsup : t.sup = b.sup) (hcount : t.count = b.count) (g : HostId) :
    (stepRecognition d s.count.time b).box g = if b.attached g = true
      then (stepNotices g d s t).foldl (fun x n => x.post n) (b.box g) else b.box g := by
  have hbox := leftoverMoved_box (d := d) hp hb hsup hcount g
  obtain ⟨hmcount, hmsup, -, -, -, -, -, hmports, -⟩ := leftoverMoved_frame d s.count.time b
  have hatt : (leftoverMoved d s.count.time b).attached g = b.attached g := by
    rw [State.attached, State.attached, State.port, State.port, hmports (by simp)]
  rw [stepNotices, hcount]
  by_cases hd : 0 < d
  · rw [stepRecognition_of_pos hd, (forward_recognised hp hb).box t (by rw [hmsup (by simp), hsup])
      (by rw [hmcount (by simp), hcount]), reachedNotices_congr (leftoverMoved_timer hp hb), hatt, hbox, if_pos hd]
    split
    · rw [List.foldl_append]
    · rfl
  · rw [stepRecognition_of_not_pos hd, hbox, if_neg hd, List.append_nil]

/-- The pins after step recognition, the actions taken at the stepped count (R76, R80, R128). -/
theorem stepRecognition_pin {t : State} (hcount : t.count = b.count) (p : PinId) :
    (stepRecognition d s.count.time b).pin p = (stepActions p d s t).foldl
      (fun r a => r.map fun r => r.apply a.1 (.slot a.2) b.count.time) (b.pin p) := by
  have hpin := leftoverMoved_pin (d := d) hp hb p
  obtain ⟨hmcount, -⟩ := leftoverMoved_frame d s.count.time b
  rw [stepActions, hcount]
  by_cases hd : 0 < d
  · rw [stepRecognition_of_pos hd, (forward_recognised hp hb).pin, reachedActions_congr (leftoverMoved_timer hp hb),
      hmcount (by simp), hpin, if_pos hd, List.foldl_append]
  · rw [stepRecognition_of_not_pos hd, hpin, if_neg hd, List.append_nil]

end StepRecognition

/-! ### The state before step recognition -/

/-- A step by `d` taken: the count, the pulse ends, the stamps of captures yet to be taken and the hand-off (R14, R129,
R141). -/
def stepTaken (d : Int) (clearResidue : Bool) (s : State) : State :=
  handOff (moveSeen (· + d) (movePulseEnds (· + d) { s with count := { s.count with
    time := ((s.count.time : Int) + d).toNat
    residue := if clearResidue then 0 else s.count.residue
    slew := 0
    setState := .set } }))

section ApplyStep

variable (d : Int) (clearResidue : Bool) (s : State)

theorem stepTaken_pin (p : PinId) : (stepTaken d clearResidue s).pin p = (s.pin p).map (pulseMovedBy d) :=
  movePulseEnds_add_pin d _ p

/-- A move by 0 leaves the pins as they stand. -/
theorem stepTaken_pins_of_zero : (stepTaken 0 clearResidue s).pins = s.pins := by
  have hend : ∀ o : Option Int, o.map (· + (0 : Int)) = o := fun o => by simp
  have hid : ∀ r : Option PinRecord, (r.map fun r => { r with pulseEnd := r.pulseEnd.map (· + (0 : Int)) }) = r :=
    fun r => by
      cases r with
      | none => rfl
      | some r => simp only [hend, Option.map_some]
  show s.pins.map _ = s.pins
  simp only [Quad.map, hid]

theorem applyStep_of_zero : applyStep 0 clearResidue s = stepTaken 0 clearResidue s := rfl

theorem applyStep_of_ne (hd : d ≠ 0) : applyStep d clearResidue s =
    stepRecognition d s.count.time (postAll
      (timeSteppedNotice (stepTaken d clearResidue s) d s.count.setState false) (stepTaken d clearResidue s)) := by
  unfold applyStep
  rw [if_neg hd]
  rfl

/-- Step recognition and TIME_STEPPED leave the count, the retained domain and the other blocks as the step has left
them. -/
theorem applyStep_frame :
    OnlyChanges [.pool, .pins, .notices] (stepTaken d clearResidue s) (applyStep d clearResidue s) := by
  by_cases hd : d = 0
  · subst hd
    rw [applyStep_of_zero]
    exact OnlyChanges.refl _ _
  · rw [applyStep_of_ne d clearResidue s hd]
    exact ((postAll_frame _ _).mono (by simp)).trans (stepRecognition_frame _ _ _)

/-- A step of the count is what R14 and R76 to R80 make of it. -/
theorem applyStep_stepped (hp : PeriodsPositive s) : Stepped d clearResidue s (applyStep d clearResidue s) := by
  obtain ⟨hcount, hsup, -, -, hauth, -, hcap, -, hret, hpower, hpending⟩ := applyStep_frame d clearResidue s
  have hcount := hcount (by simp)
  have hsup := hsup (by simp)
  by_cases hd : d = 0
  · subst hd
    rw [applyStep_of_zero]
    exact ⟨rfl, rfl, fun i => rfl, rfl, rfl, fun _ => ⟨rfl, stepTaken_pins_of_zero clearResidue s⟩,
      fun c => absurd rfl c, fun c => absurd rfl c, rfl, rfl, rfl, rfl⟩
  · have heq := applyStep_of_ne d clearResidue s hd
    have hb : ∀ i, (postAll (timeSteppedNotice (stepTaken d clearResidue s) d s.count.setState false)
        (stepTaken d clearResidue s)).timer i = s.timer i := fun i => by rw [postAll_timer]; rfl
    have hatt : ∀ g, (stepTaken d clearResidue s).attached g = s.attached g := fun _ => rfl
    refine ⟨hcount, by rw [hret (by simp), hcount]; rfl, fun i => ?_, ?_, hcap (by simp), fun c => absurd c hd,
      fun _ g => ?_, fun _ p => ?_, hsup, hauth (by simp), hpower (by simp), hpending⟩
    · rw [if_neg hd, hcount, heq, stepRecognition_timer hp hb, postAll_count]
    · rw [heq, stepRecognition_nextSeq hp hb, postAll_pool]
      rfl
    · have hbox := stepRecognition_box (d := d) (t := applyStep d clearResidue s) hp hb
        (by rw [postAll_sup, hsup]) (by rw [postAll_count, hcount]) g
      rw [← heq, postAll_attached, postAll_box, hatt, stepNotices] at hbox
      rw [hbox]
      by_cases ha : s.attached g = true
      · rw [if_pos ha, if_pos ha, if_pos ha, hcount]
        rfl
      · rw [if_neg ha, if_neg ha, if_neg ha]
        rfl
    · have hpin := stepRecognition_pin (d := d) (t := applyStep d clearResidue s) hp hb
        (by rw [postAll_count, hcount]) p
      rw [← heq, postAll_count, postAll_pin, stepTaken_pin, stepActions] at hpin
      rw [hpin, hcount]

end ApplyStep

/-! ### The answers (R10, R12, R13) -/

/-- A step seen through the request that asks for it: the request leaves all that a step reads, the held answer all that
it writes. -/
theorem Stepped.of_request {h : HostId} {op q : Byte} {r : Request} {x : Reply} {d : Int} {clearResidue : Bool}
    {s u : State} (hu : Stepped d clearResidue (requestTaken h q r s) u) :
    Stepped d clearResidue s (holdAnswer h op q x u) := by
  obtain ⟨hcount, hret, htimer, hseq, hcap, hzero, hbox, hpin, hsup, hauth, hpower, hpending⟩ := hu
  refine ⟨hcount, hret, htimer, hseq, hcap, hzero, fun hd g => ?_, hpin, hsup, hauth, hpower, hpending⟩
  rw [holdAnswer_box, hbox hd, requestTaken_attached]
  rfl

/-- A request of the holder that steps the count (R12, R13, R14). -/
theorem holder_steps {h : HostId} {q : Byte} {r : Request} {s : State} {d : Int} {clearResidue : Bool}
    (ht : TakesAsHolder h (opcodeOf r) q s) (hw : r.wellFormed = true) (hp : PeriodsPositive s)
    (hc : carryOut h noLevels r (requestTaken h q r s) = (applyStep d clearResidue (requestTaken h q r s),
      some (.okWith (amountBytes d ++ durationBytes (wholeSlew s))))) :
    ∃ t, (Host.Outcome.next (requestRow h q r noLevels s) : Host.Outcome State Fault Refusal) = .next t ∧
      Stepped d clearResidue s t ∧ PortFrame h s t ∧
      Answers h (opcodeOf r) q .ok (amountBytes d ++ durationBytes (s.count.slew.tdiv 4294967296)) t := by
  obtain ⟨⟨hr, ha⟩, hh⟩ := ht
  have htaken : OnlyChanges [.count, .retained, .pins, .cap] (requestTaken h q r s)
      (stepTaken d clearResidue (requestTaken h q r s)) := by simp [OnlyChanges, stepTaken, moveSeen]
  have hframe : OnlyChanges [.count, .retained, .pins, .cap, .pool, .notices] (requestTaken h q r s)
      (applyStep d clearResidue (requestTaken h q r s)) :=
    (htaken.mono (by simp)).trans ((applyStep_frame d clearResidue _).mono (by simp))
  obtain ⟨-, -, -, -, -, -, -, hports, -, -, -⟩ := id hframe
  have hstepped : Stepped d clearResidue (requestTaken h q r s) (applyStep d clearResidue (requestTaken h q r s)) :=
    applyStep_stepped d clearResidue _ hp
  obtain ⟨e, ⟨-, hf⟩, hx⟩ := request_held hr hw (.inl ha) (fun _ => hh) hc hframe (hports (by simp))
  exact ⟨_, e, hstepped.of_request, hf, hx⟩

/-- The amount that a step names with its sign (R10, R179). -/
theorem amountOf_of_signed {v : StepArg} {d : Int} (hn : v.nanoseconds.toNat ≤ 999999999)
    (hd : v.sign = 0 ∧ d = (stepMagnitude v : Nat) ∨ v.sign = 1 ∧ d = -((stepMagnitude v : Nat) : Int))
    (hm : d.natAbs ≤ 1099511627776000000000) : amountOf v = some d := by
  rw [amountOf_of_range hn (by omega)]
  rcases hd with ⟨h0, rfl⟩ | ⟨h1, rfl⟩
  · rw [if_pos h0]
  · rw [if_neg (by simp [h1]), if_pos h1]

end Sys2Proof.Machine

namespace Sys2Proof.Proofs

open Sys2Proof.Machine

/-- Settles O22: SET_TIME and STEP both carry out `applyStep`, whose expiries are those of the reached entries. -/
theorem stepsOfTheCount : Obligations.StepsOfTheCount := by
  unfold Obligations.StepsOfTheCount
  refine fun h q s hset hp => ⟨fun v ht hn => ?_, fun v d ht hn hd hm hlo hhi => ?_⟩
  · refine holder_steps (r := .setTime v) ht rfl hp ?_
    have hset' : (requestTaken h q (.setTime v) s).count.setState ≠ .unset := hset
    rw [carryOut, setTimeAt, timeOf_of_range hn]
    dsimp only
    rw [if_neg hset']
    rfl
  · refine holder_steps (r := .step v) ht rfl hp ?_
    have hset' : (requestTaken h q (.step v) s).count.setState ≠ .unset := hset
    rw [carryOut, stepAt_of_some hset' (amountOf_of_signed hn hd hm), if_pos]
    · rfl
    · simp only [maxTime, secondsLimit, nsPerSecond, requestTaken_count]
      omega

end Sys2Proof.Proofs
end

section
/-! What a step keeps: a property that sees neither the queue of waiting commands, nor the power and the retained
domain, nor more of a port than its session, is kept by every step when the operations behind the requests, the events
and the resets keep it (R149 to R177). -/

namespace Sys2Proof.Machine

/-- Every operation that a step comes down to keeps `P`. -/
structure OperationsKeep (P : State → Prop) : Prop where
  sessions : SeesOnlySessions P
  pending : ∀ s l, P s → P { s with pending := l }
  power : ∀ s x, P s → P { s with power := x }
  retained : ∀ s x, P s → P { s with retained := x }
  requests : RequestsKeep P
  advance : ∀ levels s, P s → P (advance levels s)
  expireHead : ∀ s, P s → P (expireHead s)
  endPulse : ∀ p s, P s → P (endPulse p s)
  takeCapture : ∀ s, P s → P (takeCapture s)
  expireLease : ∀ s, P s → P (expireLease s)
  superviseCycle : ∀ s, P s → P (superviseCycle s)
  setWatched : ∀ w x s, P s → P (s.setWatched w x)
  loseSource : ∀ w levels s, P s → P (loseSource w levels s)
  qualify : ∀ w s, P s → P (qualify w s)
  endHoldOff : ∀ w s, P s → P (endHoldOff w s)
  timeOutWait : ∀ s, P s → P (timeOutWait s)
  teardown : ∀ h s, P s → P (teardown h s)
  mainDomainCleared : ∀ s, P s → P (mainDomainCleared s)
  mainReset : ∀ s, P s → P (mainReset s)

section Operations

variable {P : State → Prop} (k : OperationsKeep P) {s : State}

include k

theorem OperationsKeep.resetIfEnded (hs : P s) : P (resetIfEnded s) := by
  unfold Machine.resetIfEnded
  split
  · exact k.mainReset _ hs
  · exact hs

theorem OperationsKeep.retainedRise (hs : P s) : P (retainedRise s) := by
  unfold Machine.retainedRise
  split
  · exact hs
  · exact k.retained _ _ (k.mainDomainCleared _ hs)

/-- A new assertion of HRSTx tears down an attached host and returns the port to IDLE (R164). -/
theorem OperationsKeep.hrstAssert {h : HostId} {t : State} (hs : P s) (e : exec (.hrstAssert h) s = .next t) :
    P t := by
  obtain rfl := Host.Outcome.next.inj e
  split
  · exact hs
  · split
    · refine k.sessions _ _ _ rfl ?_
      split
      · exact k.teardown _ _ hs
      · exact hs
    · exact k.sessions _ _ _ rfl hs

theorem OperationsKeep.exec {i : Instr} {t : State} (hs : P s) (e : exec i s = .next t) : P t := by
  cases i with
  | poll h first more =>
    obtain rfl := Host.Outcome.next.inj e
    split
    · exact transaction_keeps k.sessions k.requests _ _ hs
    · exact k.sessions.showNothing hs
  | send h frame levels => exact Host.Outcome.next.inj e ▸ transaction_keeps k.sessions k.requests _ _ hs
  | fetch h more => exact Host.Outcome.next.inj e ▸ transaction_keeps k.sessions k.requests _ _ hs
  | advance levels => exact Host.Outcome.next.inj e ▸ whileRunning_keeps (k.advance _ _) hs
  | expiry => exact Host.Outcome.next.inj e ▸ whileRunning_keeps (k.expireHead _) hs
  | pulseEnd p => exact Host.Outcome.next.inj e ▸ whileRunning_keeps (k.endPulse _ _) hs
  | capture => exact Host.Outcome.next.inj e ▸ whileRunning_keeps (k.takeCapture _) hs
  | leaseExpiry => exact Host.Outcome.next.inj e ▸ whileRunning_keeps (k.expireLease _) hs
  | rcCycle =>
    obtain rfl := Host.Outcome.next.inj e
    split
    · exact k.power _ _ hs
    · exact whileRunning_keeps (k.superviseCycle _) hs
  | sourceEdge w => exact Host.Outcome.next.inj e ▸ whileRunning_keeps (k.setWatched _ _ _) hs
  | sourceLoss w levels => exact Host.Outcome.next.inj e ▸ whileRunning_keeps (k.loseSource _ _ _) hs
  | qualification w => exact Host.Outcome.next.inj e ▸ whileRunning_keeps (k.qualify _ _) hs
  | holdOffEnd w => exact Host.Outcome.next.inj e ▸ whileRunning_keeps (k.endHoldOff _ _) hs
  | waitTimeout => exact Host.Outcome.next.inj e ▸ whileRunning_keeps (k.timeOutWait _) hs
  | hrstAssert h => exact k.hrstAssert hs e
  | mainResetConditionBegin cause =>
    obtain rfl := Host.Outcome.next.inj e
    split
    · exact k.power _ _ hs
    · exact k.power _ _ hs
    · exact k.power _ _ hs
    · exact k.power _ _ hs
    · exact hs
  | resetnRelease =>
    obtain rfl := Host.Outcome.next.inj e
    split
    · exact k.resetIfEnded (k.power _ _ hs)
    · exact hs
  | powerUpDelayEnd =>
    obtain rfl := Host.Outcome.next.inj e
    split
    · split
      · exact k.resetIfEnded (k.power _ _ hs)
      · exact hs
    · exact hs
  | vmainLoss =>
    obtain rfl := Host.Outcome.next.inj e
    split
    · exact hs
    · exact k.power _ _ (k.mainDomainCleared _ hs)
  | lpCycle => exact Host.Outcome.next.inj e ▸ k.retained _ _ hs
  | retainedStateLoss =>
    obtain rfl := Host.Outcome.next.inj e
    split
    · exact k.retained _ _ hs
    · exact k.retained _ _ hs
    · exact hs
  | coldStart => exact Host.Outcome.next.inj e ▸ k.retainedRise hs
  | hrstRelease h => exact Host.Outcome.next.inj e ▸ k.sessions _ _ _ rfl hs
  | vmainRise =>
    obtain rfl := Host.Outcome.next.inj e
    split
    · exact k.retainedRise (k.power _ _ hs)
    · exact k.power _ _ hs
    · exact hs
  | _ => exact Host.Outcome.next.inj e ▸ requestRow_keeps k.sessions k.requests _ _ hs

/-- What every operation keeps, every step keeps. -/
theorem OperationsKeep.step {t : State} (hs : P s) (h : Sys2Proof.Machine.step s = .next t) : P t :=
  step_keeps k.pending (fun _ _ _ => k.exec) hs h

end Operations

end Sys2Proof.Machine
end

section
/-! The commands that name a slot: the checks they share, the settings of an ARM, arming sequences and the arming itself
(R44, R47 to R51, R63). -/

namespace Sys2Proof.Machine

/-! ### The counts of slots (R41) -/

/-- A filter that takes one more element of a list without duplicates. -/
theorem length_filter_of_one_more {α : Type} [DecidableEq α] {l : List α} (hl : l.Nodup) {a : α} (ha : a ∈ l)
    {p q : α → Bool} (hp : p a = false) (hq : q a = true) (heq : ∀ b, b ≠ a → q b = p b) :
    (l.filter q).length = (l.filter p).length + 1 := by
  have others : (l.erase a).countP q = (l.erase a).countP p :=
    List.countP_congr fun b hb => by rw [heq b (hl.mem_erase_iff.1 hb).1]
  rw [← List.countP_eq_length_filter, ← List.countP_eq_length_filter, (List.perm_cons_erase ha).countP_eq,
    (List.perm_cons_erase ha).countP_eq, List.countP_cons_of_pos hq, List.countP_cons_of_neg (by simp [hp]), others]

section FreeSlot

variable {i : Slot} {s : State} (hi : s.timer i = none) (y : Timer)

include hi

/-- A FREE slot allocated is one more of its owner's. -/
theorem allocationCount_setTimer_self :
    allocationCount (s.setTimer i (some y)) y.owner = allocationCount s y.owner + 1 :=
  length_filter_of_one_more (List.nodup_finRange 48) (List.mem_finRange i) (by simp [hi]) (by simp)
    fun j hj => by rw [State.setTimer_timer, if_neg hj]

theorem allocationCount_setTimer_of_ne {h : HostId} (hh : y.owner ≠ h) :
    allocationCount (s.setTimer i (some y)) h = allocationCount s h := by
  unfold allocationCount
  congr 1
  refine List.filter_congr fun j _ => ?_
  rw [State.setTimer_timer]
  by_cases hj : j = i
  · simp [hj, hi, hh]
  · rw [if_neg hj]

/-- And one FREE slot fewer. -/
theorem freeCount_setTimer : freeCount s = freeCount (s.setTimer i (some y)) + 1 :=
  length_filter_of_one_more (List.nodup_finRange 48) (List.mem_finRange i) (by simp) (by simp [hi])
    fun j hj => by rw [State.setTimer_timer, if_neg hj]

end FreeSlot

/-- The lowest FREE slot is FREE. -/
theorem lowestFree_eq_some {s : State} {i : Slot} (h : lowestFree s = some i) : s.timer i = none := by
  have := List.find?_some h
  simpa using this

/-! ### The slot and its record (R44) -/

theorem slotOf_of_val {b : Byte} {i : Slot} (h : b.toNat = i.val) : slotOf b = some i := by
  have hlt : b.toNat < 48 := h ▸ i.isLt
  rw [slotOf, dif_pos hlt]
  exact congrArg some (Fin.ext h)

theorem slotOf_out_of_range {b : Byte} (h : 48 ≤ b.toNat) : slotOf b = none := by
  rw [slotOf, dif_neg (Nat.not_lt.2 h)]

section OwnedTimer

variable {h : HostId} {slot : Byte} {i : Slot} {s : State}

theorem ownedTimer_out_of_range (hr : 48 ≤ slot.toNat) : ownedTimer h slot s = .error (.bare .range) := by
  rw [ownedTimer, slotOf_out_of_range hr]

theorem ownedTimer_not_owner (hi : slot.toNat = i.val) (ho : ∀ x, s.timer i = some x → x.owner ≠ h) :
    ownedTimer h slot s = .error (.bare .notOwner) := by
  rw [ownedTimer, slotOf_of_val hi]
  cases e : s.timer i with
  | none => simp only [e]
  | some x => simp only [e, if_neg (ho x e)]

theorem ownedTimer_of_owner {x : Timer} (hi : slot.toNat = i.val) (hx : s.timer i = some x) (ho : x.owner = h) :
    ownedTimer h slot s = .ok (i, x) := by
  rw [ownedTimer, slotOf_of_val hi]
  simp only [hx, if_pos ho]

/-- A slot command that passes the checks works on a record of the caller. -/
theorem ownedTimer_eq_ok {x : Timer} (e : ownedTimer h slot s = .ok (i, x)) : s.timer i = some x ∧ x.owner = h := by
  unfold ownedTimer at e
  split at e
  · cases e
  · split at e
    · cases e
    · next hx =>
      split at e
      · next ho =>
        cases e
        exact ⟨hx, ho⟩
      · cases e

end OwnedTimer

/-! ### The settings of an ARM (R47 steps 2 to 5) -/

/-- Each setting is the meaning of its field. -/
theorem armSettings_eq_some {v : ArmArg} {x : ArmSettings} : armSettings v = some x ↔
    timerKindOf v.kind v.period = some x.kind ∧ basisOf v.basis = some x.basis ∧ whenOf x.basis v.when = some x.when ∧
      classOf v.cls = some x.cls ∧ yesNoOf v.notify = some x.notify ∧ pinUseOf v.pinAction = some x.action ∧
      v.tag = x.tag := by
  simp only [armSettings, bind, Option.bind_eq_some_iff, pure, Option.some.injEq]
  constructor
  · rintro ⟨kind, hk, basis, hb, w, hw, cls, hc, notify, hn, action, ha, rfl⟩
    exact ⟨hk, hb, hw, hc, hn, ha, rfl⟩
  · rintro ⟨hk, hb, hw, hc, hn, ha, ht⟩
    exact ⟨_, hk, _, hb, _, hw, _, hc, _, hn, _, ha, by rw [ht]⟩

theorem classOf_le {b : Byte} {c : Nat} (h : classOf b = some c) : c ≤ 3 := by
  unfold classOf at h
  split at h
  · cases h; assumption
  · cases h

/-- The period of a PERIODIC kind is in range (R42). -/
theorem timerKindOf_period {b : Byte} {period : BitVec 64} {p : Nat} (h : timerKindOf b period = some (.periodic p)) :
    10000 ≤ p ∧ p ≤ 1000000000000000 := by
  unfold timerKindOf at h
  split at h
  · cases h
  · split at h
    · split at h
      · next hr =>
        cases h
        simp only [periodMin, durationMax] at hr
        omega
      · cases h
    · cases h

theorem armSettings_cls {v : ArmArg} {x : ArmSettings} (h : armSettings v = some x) : x.cls ≤ 3 := by
  obtain ⟨-, -, -, hc, -, -, -⟩ := armSettings_eq_some.1 h
  exact classOf_le hc

theorem armSettings_period {v : ArmArg} {x : ArmSettings} (h : armSettings v = some x) {p : Nat}
    (hp : x.kind = .periodic p) : 10000 ≤ p ∧ p ≤ 1000000000000000 := by
  obtain ⟨hk, -⟩ := armSettings_eq_some.1 h
  exact timerKindOf_period (hp ▸ hk)

/-- The pin of a given pin action is bound to the caller, when one is given (R47 step 7). -/
theorem pinAllowed_iff {h : HostId} {x : ArmSettings} {s : State} :
    pinAllowed h x s = true ↔ ∀ u, x.action = some u → ∃ r, s.pin u.pin = some r ∧ r.owner = h := by
  unfold pinAllowed
  cases x.action with
  | none => simp
  | some u => cases hr : s.pin u.pin <;> simp [hr]

/-! ### Arming sequences (R63) -/

/-- A record with the arming sequence of its arming changed by `f`. -/
def Timer.reseq (f : Nat → Nat) (t : Timer) : Timer :=
  { t with armed := t.armed.map fun a => { a with seq := f a.seq } }

theorem Timer.reseq_id (t : Timer) : t.reseq id = t := by
  cases t with
  | mk owner armed =>
    cases armed <;> rfl

/-- The place of sequence `n` among those of the ARMED records of `s`. -/
def seqRank (s : State) (n : Nat) : Nat := ((armedEntries s).filter fun e => e.seq < n).length

theorem renumber_timer (s : State) (i : Slot) : (renumber s).timer i = (s.timer i).map (Timer.reseq (seqRank s)) := by
  simp only [renumber, State.timer, mapTimers_get]
  rfl

/-- `s` with `n` as the next arming sequence. -/
def withNextSeq (n : Nat) (s : State) : State := { s with pool := { s.pool with nextSeq := n } }

@[simp] theorem withNextSeq_timer (n : Nat) (s : State) (i : Slot) : (withNextSeq n s).timer i = s.timer i := rfl

/-- Below its greatest value the counter gives the sequence. -/
theorem takeSequence_of_lt {s : State} (h : s.pool.nextSeq < seqMax) :
    takeSequence s = (s.pool.nextSeq, withNextSeq (s.pool.nextSeq + 1) s) := by
  simp only [takeSequence, if_neg (Nat.not_le.2 h)]
  rfl

/-- At its greatest value the ARMED records are renumbered first. -/
theorem takeSequence_of_le {s : State} (h : seqMax ≤ s.pool.nextSeq) :
    takeSequence s = ((armedEntries s).length, withNextSeq ((armedEntries s).length + 1) (renumber s)) := by
  simp only [takeSequence, if_pos h]
  rfl

/-- Taking a sequence changes no more of a record than its arming sequence. -/
theorem takeSequence_timer (s : State) : ∃ f, ∀ i, (takeSequence s).2.timer i = (s.timer i).map (Timer.reseq f) := by
  rcases Nat.lt_or_ge s.pool.nextSeq seqMax with h | h
  · refine ⟨id, fun i => ?_⟩
    rw [takeSequence_of_lt h, withNextSeq_timer]
    cases s.timer i with
    | none => rfl
    | some t => rw [Option.map_some, Timer.reseq_id]
  · refine ⟨seqRank s, fun i => ?_⟩
    rw [takeSequence_of_le h, withNextSeq_timer, renumber_timer]

/-! ### The arming (R48) -/

/-- The record that an ARM of `h` writes: ARMED with the settings given, its fire count 0 (R48). -/
def armedRecord (h : HostId) (x : ArmSettings) (first : Int) (seq skipped : Nat) : Timer :=
  ⟨h, some ⟨first, seq⟩, x.kind, x.basis, x.cls, x.notify, x.action, x.tag, 0, min 65535 skipped⟩

/-- The arming sequence that an ARM of slot `i` takes once the old deadline is withdrawn, and the state it leaves. -/
def sequenceForSlot (i : Slot) (old : Timer) (s : State) : Nat × State :=
  takeSequence (s.setTimer i (some { old with armed := none }))

/-- The state with the record of an ARM written, before an expiry in the event. -/
def armPlaced (h : HostId) (i : Slot) (old : Timer) (x : ArmSettings) (first : Int) (skipped : Nat) (s : State) :
    State :=
  (sequenceForSlot i old s).2.setTimer i (some (armedRecord h x first (sequenceForSlot i old s).1 skipped))

section ArmTimer

variable (h : HostId) (i : Slot) (old : Timer) (x : ArmSettings) (first : Int) (skipped : Nat) (s : State)

theorem armTimer_of_later (hf : ¬first ≤ s.count.time) :
    armTimer h i old x first skipped s = armPlaced h i old x first skipped s := by
  unfold armTimer
  exact if_neg hf

/-- A first deadline already reached expires the timer in the event (R50). -/
theorem armTimer_of_reached (hf : first ≤ s.count.time) : armTimer h i old x first skipped s =
    expire i (x.basis = .absolute) s.count.time (armPlaced h i old x first skipped s) := by
  unfold armTimer
  exact if_pos hf

theorem armPlaced_frame : OnlyChanges [.pool] s (armPlaced h i old x first skipped s) :=
  ((setTimer_frame _ _ _).trans (takeSequence_frame _)).trans (setTimer_frame _ _ _)

/-- The record written, and no more than the arming sequences of the others changed. -/
theorem armPlaced_timer : ∃ f, ∀ j, (armPlaced h i old x first skipped s).timer j =
    if j = i then some (armedRecord h x first (sequenceForSlot i old s).1 skipped)
    else (s.timer j).map (Timer.reseq f) := by
  obtain ⟨f, hf⟩ := takeSequence_timer (s.setTimer i (some { old with armed := none }))
  refine ⟨f, fun j => ?_⟩
  rw [armPlaced, State.setTimer_timer, sequenceForSlot, hf, State.setTimer_timer]
  split <;> rfl

end ArmTimer

/-- An ARM that is taken passed every check of R47, and arms the slot. -/
theorem armAt_taken {h : HostId} {v : ArmArg} {i : Slot} {old : Timer} {x : ArmSettings} {first : Int} {skipped : Nat}
    {s : State} (ho : ownedTimer h v.slot s = .ok (i, old)) (hx : armSettings v = some x)
    (hset : x.basis = .absolute → s.count.setState ≠ .unset) (hpin : pinAllowed h x s = true)
    (hfirst : firstDeadline x s.count.time = some (first, skipped)) :
    armAt h v s = (armTimer h i old x first skipped s,
      .okWith (armAnswer i old (first ≤ s.count.time) (decide (first ≤ s.count.time) && x.basis = .absolute)
        (armTimer h i old x first skipped s))) := by
  have hset' : ¬(x.basis = .absolute ∧ s.count.setState = .unset) := fun ⟨hb, hu⟩ => hset hb hu
  unfold armAt
  simp only [ho, hx, if_neg hset', hpin, hfirst]
  rfl

/-- An ARM changes nothing, or it passed every check of R47. -/
theorem armAt_cases (h : HostId) (v : ArmArg) (s : State) : (armAt h v s).1 = s ∨
    ∃ i old x first skipped, ownedTimer h v.slot s = .ok (i, old) ∧ armSettings v = some x ∧
      (x.basis = .absolute → s.count.setState ≠ .unset) ∧ pinAllowed h x s = true ∧
      (armAt h v s).1 = armTimer h i old x first skipped s := by
  cases ho : ownedTimer h v.slot s with
  | error r => exact .inl (by simp only [armAt, ho])
  | ok found =>
    obtain ⟨i, old⟩ := found
    cases hx : armSettings v with
    | none => exact .inl (by simp only [armAt, ho, hx])
    | some x =>
      by_cases hset : x.basis = .absolute ∧ s.count.setState = .unset
      · exact .inl (by simp only [armAt, ho, hx, if_pos hset])
      · cases hpin : pinAllowed h x s with
        | false => exact .inl (by simp [armAt, ho, hx, hset, hpin])
        | true =>
          have hset' : x.basis = .absolute → s.count.setState ≠ .unset := fun hb hu => hset ⟨hb, hu⟩
          cases hfirst : firstDeadline x s.count.time with
          | none => exact .inl (by simp [armAt, ho, hx, hset, hpin, hfirst])
          | some f =>
            obtain ⟨first, skipped⟩ := f
            exact .inr ⟨i, old, x, first, skipped, rfl, rfl, hset', hpin, by rw [armAt_taken ho hx hset' hpin hfirst]⟩

end Sys2Proof.Machine
end

section
/-! The classes of notices, timers and subscribers: class 4 is that of the system notices alone (R42, R86, R134). -/

namespace Sys2Proof.Machine

/-! ### The classes, part by part -/

/-- A notice has class 4 exactly when it is a system notice (R86). -/
def Classed (n : Notice) : Prop := n.cls ≤ 4 ∧ (n.cls = 4 ↔ SystemShape n)

def QueuesClassed (s : State) : Prop := ∀ h, ∀ n ∈ (s.box h).queue, Classed n

def TimersClassed (s : State) : Prop := ∀ i t, s.timer i = some t → t.cls ≤ 3

def SubscribersClassed (s : State) : Prop := ∀ i h c, (s.input i).subscribers.get h = some c → c ≤ 3

theorem systemNoticeInv_iff (s : State) :
    SystemNoticeInv s ↔ QueuesClassed s ∧ TimersClassed s ∧ SubscribersClassed s := Iff.rfl

theorem SystemNoticeInv.queues {s : State} (hs : SystemNoticeInv s) : QueuesClassed s :=
  ((systemNoticeInv_iff s).1 hs).1

theorem SystemNoticeInv.timers {s : State} (hs : SystemNoticeInv s) : TimersClassed s := by
  obtain ⟨-, ht, -⟩ := (systemNoticeInv_iff s).1 hs
  exact ht

theorem SystemNoticeInv.subscribers {s : State} (hs : SystemNoticeInv s) : SubscribersClassed s := by
  obtain ⟨-, -, hc⟩ := (systemNoticeInv_iff s).1 hs
  exact hc

theorem QueuesClassed.of_eq {s t : State} (hs : QueuesClassed s) (h : t.notices = s.notices) : QueuesClassed t := by
  intro g n hn
  rw [State.box, h] at hn
  exact hs g n hn

theorem TimersClassed.of_eq {s t : State} (hs : TimersClassed s) (h : t.pool = s.pool) : TimersClassed t := by
  intro i x hx
  rw [State.timer, h] at hx
  exact hs i x hx

theorem SubscribersClassed.of_eq {s t : State} (hs : SubscribersClassed s) (h : t.cap.inputs = s.cap.inputs) :
    SubscribersClassed t := by
  intro i g c hc
  rw [State.input, h] at hc
  exact hs i g c hc

/-- The classes after a change of the named parts are those of the parts that hold classes. -/
theorem SystemNoticeInv.of_frame {ps : List Part} {s t : State} (hs : SystemNoticeInv s) (hf : OnlyChanges ps s t)
    (hq : .notices ∈ ps → QueuesClassed t) (hp : .pool ∈ ps → TimersClassed t)
    (hc : .cap ∈ ps → SubscribersClassed t) : SystemNoticeInv t := by
  obtain ⟨hsq, hsp, hsc⟩ := (systemNoticeInv_iff s).1 hs
  obtain ⟨-, -, hpool, hnotices, -, -, hcap, -⟩ := hf
  refine ⟨?_, ?_, ?_⟩
  · by_cases m : Part.notices ∈ ps
    · exact hq m
    · exact hsq.of_eq (hnotices m)
  · by_cases m : Part.pool ∈ ps
    · exact hp m
    · exact hsp.of_eq (hpool m)
  · by_cases m : Part.cap ∈ ps
    · exact hc m
    · exact hsc.of_eq (by rw [hcap m])

/-- What changes no part that holds classes keeps them. -/
theorem SystemNoticeInv.of_other {ps : List Part} {s t : State} (hs : SystemNoticeInv s) (hf : OnlyChanges ps s t)
    (hps : [.notices, .pool, .cap].Disjoint ps) : SystemNoticeInv t :=
  hs.of_frame hf (fun m => (hps (by simp) m).elim) (fun m => (hps (by simp) m).elim)
    (fun m => (hps (by simp) m).elim)

/-! ### Notices posted -/

/-- A merge keeps the class, the kind and the origin of the queued notice (R90). -/
theorem mergeNotice_classed {x : Notice} (y : Notice) (hx : Classed x) : Classed (mergeNotice x y) := hx

/-- What a box holds after a post is merged, new, or was queued before (R89 to R92). -/
theorem mem_post_queue {n x : Notice} {b : NoticeBox} (h : x ∈ (b.post n).queue) :
    x = n ∨ x ∈ b.queue ∨ ∃ y ∈ b.queue, x = mergeNotice y n := by
  unfold NoticeBox.post at h
  split at h
  · obtain ⟨y, hy, rfl⟩ := List.mem_map.1 h
    by_cases c : sameKey n y = true
    · exact .inr (.inr ⟨y, hy, if_pos c⟩)
    · exact .inr (.inl ((if_neg c).symm ▸ hy))
  · split at h
    · exact (mem_insertNotice.1 h).imp_right .inl
    · dsimp only at h
      split at h
      · exact (mem_insertNotice.1 h).imp_right fun hx => .inl (List.dropLast_subset _ hx)
      · exact .inr (.inl h)

theorem post_queue_classed {n : Notice} {b : NoticeBox} (hb : ∀ x ∈ b.queue, Classed x) (hn : Classed n) :
    ∀ x ∈ (b.post n).queue, Classed x := by
  intro x hx
  rcases mem_post_queue hx with rfl | hx | ⟨y, hy, rfl⟩
  · exact hn
  · exact hb x hx
  · exact mergeNotice_classed n (hb y hy)

theorem post_systemNoticeInv {h : HostId} {n : Notice} {s : State} (hs : SystemNoticeInv s) (hn : Classed n) :
    SystemNoticeInv (post h n s) := by
  refine hs.of_frame (post_frame h n s) (fun _ g => ?_) (by simp) (by simp)
  rw [post_box]
  split
  · exact post_queue_classed (hs.queues h) hn
  · exact hs.queues g

theorem postAll_systemNoticeInv {n : Notice} {s : State} (hs : SystemNoticeInv s) (hn : Classed n) :
    SystemNoticeInv (postAll n s) :=
  post_systemNoticeInv (post_systemNoticeInv (post_systemNoticeInv hs hn) hn) hn

theorem timerNotice_classed {s : State} {i : Slot} {t : Timer} {stamp : Nat} {late : Bool} (h : t.cls ≤ 3) :
    Classed (timerNotice s i t stamp late) := by
  have hcls : (timerNotice s i t stamp late).cls = t.cls := rfl
  refine ⟨by omega, fun c => by omega, fun c => ?_⟩
  simp [SystemShape, timerNotice] at c

theorem captureNotice_classed {s : State} (i : CapId) (h : HostId) (hs : SubscribersClassed s) :
    Classed (captureNotice s i h) := by
  have hcls : (captureNotice s i h).cls ≤ 3 := by
    show ((s.input i).subscribers.get h).getD 0 ≤ 3
    cases e : (s.input i).subscribers.get h with
    | none => exact Nat.zero_le _
    | some c => exact hs i h c e
  refine ⟨by omega, fun c => by omega, fun c => ?_⟩
  simp [SystemShape, captureNotice] at c

theorem timeSteppedNotice_classed (s : State) (d : Int) (before : SetState) (first : Bool) :
    Classed (timeSteppedNotice s d before first) := by
  simp [Classed, timeSteppedNotice, SystemShape]

theorem sourceNotice_classed (s : State) (cause : Cause) (stamp : Nat) : Classed (sourceNotice s cause stamp) := by
  simp [Classed, sourceNotice, SystemShape]

/-- The notices of the arbiter: AUTH_GRANTED and AUTH_LOST without an origin, AUTH_WANTED from a host (R116). -/
theorem arbiterNotice_classed {s : State} {kind : NoticeKind} {origin : Option Origin} {detail : Option Detail}
    (h : (kind = .authGranted ∨ kind = .authLost) ∧ origin = none ∨
      kind = .authWanted ∧ ∃ g, origin = some (.host g)) : Classed (arbiterNotice s kind origin detail) := by
  refine ⟨le_rfl, fun _ => ?_, fun _ => rfl⟩
  rcases h with ⟨hk | hk, ho⟩ | hw
  · exact .inl ⟨.inr (.inr (.inl hk)), ho⟩
  · exact .inl ⟨.inr (.inr (.inr hk)), ho⟩
  · exact .inr hw

/-! ### Records of the pool -/

theorem setTimer_systemNoticeInv {i : Slot} {x : Option Timer} {s : State} (hs : SystemNoticeInv s)
    (hx : ∀ t, x = some t → t.cls ≤ 3) : SystemNoticeInv (s.setTimer i x) := by
  refine hs.of_frame (setTimer_frame i x s) (by simp) (fun _ j t ht => ?_) (by simp)
  rw [State.setTimer_timer] at ht
  split at ht
  · exact hx t ht
  · exact hs.timers j t ht

/-- Records that each come from one of their class. -/
theorem TimersClassed.of_records {s t : State} (hs : TimersClassed s)
    (h : ∀ i y, t.timer i = some y → ∃ x, s.timer i = some x ∧ y.cls = x.cls) : TimersClassed t := by
  intro i y hy
  obtain ⟨x, hx, e⟩ := h i y hy
  exact e ▸ hs i x hx

/-- An operation on every record that keeps its class. -/
theorem TimersClassed.of_map {s t : State} (hs : TimersClassed s) {f : Timer → Timer}
    (hf : ∀ x, (f x).cls = x.cls) (h : ∀ i, t.timer i = (s.timer i).map f) : TimersClassed t := by
  refine hs.of_records fun i y hy => ?_
  rw [h, Option.map_eq_some_iff] at hy
  obtain ⟨x, hx, rfl⟩ := hy
  exact ⟨x, hx, hf x⟩

@[simp] theorem settle_cls (t : Timer) (x : Arming) (now : Nat) : (t.settle x now).cls = t.cls := by
  unfold Timer.settle
  split
  · rfl
  · dsimp only
    split <;> rfl

@[simp] theorem movedBy_cls (d : Int) (t : Timer) : (movedBy d t).cls = t.cls := by
  unfold movedBy
  split <;> rfl

theorem expire_systemNoticeInv {i : Slot} {late : Bool} {now : Nat} {s : State} (hs : SystemNoticeInv s) :
    SystemNoticeInv (expire i late now s) := by
  unfold expire
  split
  · exact hs
  · next t ht =>
    have hcls : t.cls ≤ 3 := hs.timers i t ht
    split
    · exact hs
    · dsimp only
      refine setTimer_systemNoticeInv ?_ fun u hu => ?_
      · have acted : SystemNoticeInv (match t.action with
            | some u => applyAction u.pin u.action (.slot i) s
            | none => s) := by
          split
          · exact hs.of_other (applyAction_frame _ _ _ _) (by simp)
          · exact hs
        split
        · exact post_systemNoticeInv acted (timerNotice_classed hcls)
        · exact acted
      · obtain rfl := Option.some.inj hu
        rw [settle_cls]
        exact hcls

theorem expireReached_systemNoticeInv {n : Nat} {late : Bool} {now : Nat} {s : State} (hs : SystemNoticeInv s) :
    SystemNoticeInv (expireReached n late now s) := by
  induction n generalizing s with
  | zero => exact hs
  | succ n ih =>
    unfold expireReached
    split
    · split
      · exact ih (expire_systemNoticeInv hs)
      · exact hs
    · exact hs

theorem moveElapsed_systemNoticeInv {d : Int} {s : State} (hs : SystemNoticeInv s) :
    SystemNoticeInv (moveElapsed (· + d) s) :=
  hs.of_frame (moveElapsed_frame _ s) (by simp)
    (fun _ => hs.timers.of_map (movedBy_cls d) (moveElapsed_add_timer d s)) (by simp)

theorem stepRecognition_systemNoticeInv {d : Int} {before : Nat} {s : State} (hs : SystemNoticeInv s) :
    SystemNoticeInv (stepRecognition d before s) := by
  have moved : SystemNoticeInv (leftoverMoved d before s) :=
    moveElapsed_systemNoticeInv (expireReached_systemNoticeInv hs)
  by_cases hd : 0 < d
  · rw [stepRecognition_of_pos hd]
    exact expireReached_systemNoticeInv moved
  · rw [stepRecognition_of_not_pos hd]
    exact moved

/-! ### The count -/

theorem takeAdvance_systemNoticeInv {m : Nat} {levels : Quad Level} {s : State} (hs : SystemNoticeInv s) :
    SystemNoticeInv (takeAdvance m levels s) := by
  have moved : SystemNoticeInv (moveCount m s) := by
    rcases Nat.lt_or_ge (fineCount s + m) countLimit with h | h
    · rw [moveCount_of_lt _ _ h]
      exact hs.of_other (reachCount_frame _ s) (by simp)
    · rw [moveCount_of_le _ _ h]
      exact hs.of_frame (holdCount_frame _ s) (by simp)
        (fun _ => hs.timers.of_map (movedBy_cls _) (holdCount_timer _ s)) (by simp)
  refine moved.of_frame (takeAdvance_rest_frame m levels s) (by simp) (by simp) fun _ i g c hc => ?_
  rw [takeAdvance_input] at hc
  exact hs.subscribers i g c hc

theorem firstSet_systemNoticeInv {value : Nat} {s : State} (hs : SystemNoticeInv s) :
    SystemNoticeInv (firstSet value s) := by
  refine postAll_systemNoticeInv ?_ (timeSteppedNotice_classed _ _ _ _)
  have moved : SystemNoticeInv (moveElapsed (· + ((value : Int) - s.count.time))
      { s with count := { s.count with time := value, residue := 0, setState := .set } }) :=
    moveElapsed_systemNoticeInv (hs.of_other (ps := [.count]) (by simp [OnlyChanges]) (by simp))
  refine moved.of_frame (ps := [.pins, .cap, .retained]) ?_ (by simp) (by simp)
    fun _ => moved.subscribers.of_eq rfl
  simp [OnlyChanges, handOffFirstSet, moveSeen]

theorem stepTaken_frame (d : Int) (clearResidue : Bool) (s : State) :
    OnlyChanges [.count, .retained, .pins, .cap] s (stepTaken d clearResidue s) := by
  simp [OnlyChanges, stepTaken, moveSeen]

theorem applyStep_systemNoticeInv {d : Int} {clearResidue : Bool} {s : State} (hs : SystemNoticeInv s) :
    SystemNoticeInv (applyStep d clearResidue s) := by
  have taken : SystemNoticeInv (stepTaken d clearResidue s) :=
    hs.of_frame (stepTaken_frame _ _ _) (by simp) (by simp) fun _ => hs.subscribers.of_eq rfl
  by_cases hd : d = 0
  · subst hd
    exact taken
  · rw [applyStep_of_ne _ _ _ hd]
    exact stepRecognition_systemNoticeInv (postAll_systemNoticeInv taken (timeSteppedNotice_classed _ _ _ _))

theorem setTimeAt_systemNoticeInv {v : TimeArg} {s : State} (hs : SystemNoticeInv s) :
    SystemNoticeInv (setTimeAt v s).1 := by
  unfold setTimeAt
  split
  · exact hs
  · split
    · exact firstSet_systemNoticeInv hs
    · exact applyStep_systemNoticeInv hs

theorem stepAt_systemNoticeInv {v : StepArg} {s : State} (hs : SystemNoticeInv s) :
    SystemNoticeInv (stepAt v s).1 := by
  unfold stepAt
  split
  · exact hs
  · split
    · exact hs
    · dsimp only
      split
      · exact applyStep_systemNoticeInv hs
      · exact hs

theorem slewAt_frame (v : BitVec 64) (s : State) : OnlyChanges [.count] s (slewAt v s).1 := by
  unfold slewAt
  split
  · exact OnlyChanges.refl _ _
  · split
    · exact OnlyChanges.refl _ _
    · simp [OnlyChanges]

/-! ### The supervisor and the arbiter -/

theorem selectWithNotice_systemNoticeInv {x : Source} {cause : Cause} {stamp : Nat} {s : State}
    (hs : SystemNoticeInv s) : SystemNoticeInv (selectWithNotice x cause stamp s) := by
  unfold selectWithNotice
  split
  · exact hs
  · exact postAll_systemNoticeInv (hs.of_other (switchTo_frame x s) (by simp)) (sourceNotice_classed _ _ _)

theorem endWait_systemNoticeInv {r : Option Reply} {s : State} (hs : SystemNoticeInv s) :
    SystemNoticeInv (endWait r s) := hs.of_other (endWait_frame r s).1 (by simp)

theorem setWatched_systemNoticeInv {w : Watched} {x : SourceState} {s : State} (hs : SystemNoticeInv s) :
    SystemNoticeInv (s.setWatched w x) := hs.of_other (setWatched_frame w x s) (by simp)

theorem failover_systemNoticeInv {m : Nat} {levels : Quad Level} {s : State} (hs : SystemNoticeInv s) :
    SystemNoticeInv (failover m levels s) :=
  postAll_systemNoticeInv ((takeAdvance_systemNoticeInv hs).of_other (withSup_frame _ _) (by simp))
    (sourceNotice_classed _ _ _)

theorem loseSource_systemNoticeInv {w : Watched} {levels : Quad Level} {s : State} (hs : SystemNoticeInv s) :
    SystemNoticeInv (loseSource w levels s) := by
  have failed : SystemNoticeInv (s.setWatched w .failed) := setWatched_systemNoticeInv hs
  unfold loseSource
  split
  · refine SystemNoticeInv.of_other ?_ (endWaitIf_frame _ _ _) (by simp)
    split
    · exact failover_systemNoticeInv failed
    · split
      · exact failed.of_other (withSup_frame _ _) (by simp)
      · exact failed
  · exact hs

theorem qualify_systemNoticeInv {w : Watched} {s : State} (hs : SystemNoticeInv s) :
    SystemNoticeInv (qualify w s) := by
  unfold qualify
  split
  · split
    · dsimp only
      split
      · exact endWait_systemNoticeInv (selectWithNotice_systemNoticeInv (setWatched_systemNoticeInv hs))
      · split
        · exact (setWatched_systemNoticeInv hs).of_other (switchTo_frame _ _) (by simp)
        · exact setWatched_systemNoticeInv hs
    · exact hs
  · exact hs

theorem endHoldOff_systemNoticeInv {w : Watched} {s : State} (hs : SystemNoticeInv s) :
    SystemNoticeInv (endHoldOff w s) := by
  unfold endHoldOff
  split
  · split
    · dsimp only
      split
      · exact selectWithNotice_systemNoticeInv (setWatched_systemNoticeInv hs)
      · exact setWatched_systemNoticeInv hs
    · exact hs
  · exact hs

theorem storeList_frame (l : List Source) (s : State) : OnlyChanges [.sup, .retained] s (storeList l s) := by
  simp [OnlyChanges, storeList]

theorem setTrimAt_frame (source : Byte) (trim : BitVec 32) (s : State) :
    OnlyChanges [.sup, .retained] s (setTrimAt source trim s).1 := by
  unfold setTrimAt
  split
  · simp [OnlyChanges]
  · exact OnlyChanges.refl _ _

/-- The outcome of a store: the state it reaches, with or without a wait that starts (R34, R35). -/
theorem setSourcesAt_keeps {P : State → Prop} {h : HostId} {v : ListArg} {levels : Quad Level} {s : State} (hs : P s)
    (hlist : ∀ l, P (storeList l s)) (hbridge : ∀ u, P u → P (storeBridge s levels u))
    (hselect : ∀ x u, P u → P (selectAtStore s x u)) (hwait : ∀ u x, P u → P { u with sup := x }) :
    P (setSourcesAt h v levels s).1 := by
  unfold setSourcesAt
  split
  · exact hs
  · next l _ =>
    have waits : ∀ u : State, P u → P (if l.head? = some u.sup.selected
        then (u, some (selectedReply .ok u))
        else ({ u with sup := { u.sup with wait := some ⟨h, 0⟩ } }, none)).1 := fun u hu => by
      split
      · exact hu
      · exact hwait u _ hu
    refine waits _ ?_
    split
    · exact hselect _ _ (hbridge _ (hlist l))
    · exact hbridge _ (hlist l)

theorem storeBridge_systemNoticeInv {before s : State} {levels : Quad Level} (hs : SystemNoticeInv s) :
    SystemNoticeInv (storeBridge before levels s) := by
  unfold storeBridge
  split
  · exact takeAdvance_systemNoticeInv (hs.of_other (withSup_frame _ _) (by simp))
  · exact hs

theorem setSourcesAt_systemNoticeInv {h : HostId} {v : ListArg} {levels : Quad Level} {s : State}
    (hs : SystemNoticeInv s) : SystemNoticeInv (setSourcesAt h v levels s).1 := by
  refine setSourcesAt_keeps hs (fun l => hs.of_other (storeList_frame l s) (by simp))
    (fun _ => storeBridge_systemNoticeInv) (fun x u hu => ?_) (fun u x hu => hu.of_other (withSup_frame x u) (by simp))
  refine postAll_systemNoticeInv (SystemNoticeInv.of_other (ps := [.sup]) hu ?_ (by simp)) (sourceNotice_classed _ _ _)
  simp [OnlyChanges]

theorem withAuth_frame (x : Authority) (s : State) : OnlyChanges [.auth] s { s with auth := x } := by
  simp [OnlyChanges]

theorem grant_systemNoticeInv {h : HostId} {lease : Nat} {s : State} (hs : SystemNoticeInv s) :
    SystemNoticeInv (grant h lease s) :=
  post_systemNoticeInv (hs.of_other (withAuth_frame _ s) (by simp)) (arbiterNotice_classed (by simp))

theorem handOver_systemNoticeInv {old : HostId} {torn : Bool} {s : State} (hs : SystemNoticeInv s) :
    SystemNoticeInv (handOver old torn s) := by
  unfold handOver
  refine SystemNoticeInv.of_other ?_ (endWaitIf_frame _ _ _) (by simp)
  split
  · exact hs.of_other (withAuth_frame _ s) (by simp)
  · exact grant_systemNoticeInv (hs.of_other (withAuth_frame _ s) (by simp))

theorem expireLease_systemNoticeInv {s : State} (hs : SystemNoticeInv s) : SystemNoticeInv (expireLease s) := by
  unfold expireLease
  split
  · split
    · exact handOver_systemNoticeInv (post_systemNoticeInv hs (arbiterNotice_classed (by simp)))
    · exact hs
  · exact hs

theorem claimAt_systemNoticeInv {h : HostId} {lease : BitVec 16} {s : State} (hs : SystemNoticeInv s) :
    SystemNoticeInv (claimAt h lease s).1 := by
  unfold claimAt
  split
  · exact hs
  · dsimp only
    split
    · exact grant_systemNoticeInv hs
    · split
      · exact hs.of_other (withAuth_frame _ s) (by simp)
      · split
        · exact hs
        · exact post_systemNoticeInv (hs.of_other (withAuth_frame _ s) (by simp)) (arbiterNotice_classed (by simp))

theorem releaseAt_systemNoticeInv {h : HostId} {s : State} (hs : SystemNoticeInv s) :
    SystemNoticeInv (releaseAt h s).1 := by
  unfold releaseAt
  split
  · exact handOver_systemNoticeInv hs
  · exact hs

/-! ### The capture unit -/

theorem setInput_systemNoticeInv {i : CapId} {x : CapInput} {s : State} (hs : SystemNoticeInv s)
    (hx : ∀ h c, x.subscribers.get h = some c → c ≤ 3) : SystemNoticeInv (s.setInput i x) := by
  refine hs.of_frame (setInput_frame i x s) (by simp) (by simp) fun _ j h c hc => ?_
  rw [State.setInput_input] at hc
  split at hc
  · exact hx h c hc
  · exact hs.subscribers j h c hc

/-- A change of the capture unit that leaves its inputs. -/
theorem withCap_systemNoticeInv {x : Capture} {s : State} (hs : SystemNoticeInv s) (hx : x.inputs = s.cap.inputs) :
    SystemNoticeInv { s with cap := x } :=
  hs.of_frame (ps := [.cap]) (by simp [OnlyChanges]) (by simp) (by simp) fun _ => hs.subscribers.of_eq hx

/-- What each round of a fold keeps, the fold keeps. -/
theorem foldl_keeps {α : Type} {P : State → Prop} {f : State → α → State} (hf : ∀ s x, P s → P (f s x))
    (l : List α) {s : State} (hs : P s) : P (l.foldl f s) := by
  induction l generalizing s with
  | nil => exact hs
  | cons x l ih => exact ih (hf s x hs)

theorem raiseGap_systemNoticeInv {i : CapId} {h : HostId} {s : State} (hs : SystemNoticeInv s) :
    SystemNoticeInv (raiseGap i h s) := setInput_systemNoticeInv hs fun g c hc => hs.subscribers i g c hc

theorem makeRoom_systemNoticeInv {s : State} (hs : SystemNoticeInv s) : SystemNoticeInv (makeRoom s) := by
  unfold makeRoom
  split
  · exact hs
  · split
    · exact hs
    · have discarded : ∀ l, SystemNoticeInv { s with cap := { s.cap with log := l } } := fun l =>
        withCap_systemNoticeInv hs rfl
      exact foldl_keeps (P := SystemNoticeInv) (fun _ _ => raiseGap_systemNoticeInv) _ (discarded _)

theorem makeRecord_systemNoticeInv {e : SeenEdge} {s : State} (hs : SystemNoticeInv s) :
    SystemNoticeInv (makeRecord e s) := withCap_systemNoticeInv hs rfl

theorem takeCapture_systemNoticeInv {s : State} (hs : SystemNoticeInv s) : SystemNoticeInv (takeCapture s) := by
  unfold takeCapture
  split
  · exact hs
  · next e rest _ =>
    have seen : ∀ l, SystemNoticeInv { s with cap := { s.cap with seen := l } } := fun l =>
      withCap_systemNoticeInv hs rfl
    dsimp only
    split
    · exact seen _
    · have made := makeRecord_systemNoticeInv (e := e) (makeRoom_systemNoticeInv (seen rest))
      refine foldl_keeps (P := SystemNoticeInv) (fun u g hu => ?_) _ made
      exact post_systemNoticeInv hu (captureNotice_classed _ _ hu.subscribers)

theorem setEdgesAt_systemNoticeInv {input selection : Byte} {s : State} (hs : SystemNoticeInv s) :
    SystemNoticeInv (setEdgesAt input selection s).1 := by
  unfold setEdgesAt
  split
  · exact setInput_systemNoticeInv hs fun g c hc => hs.subscribers _ g c hc
  · exact hs

theorem subscribeAt_systemNoticeInv {h : HostId} {input cls : Byte} {s : State} (hs : SystemNoticeInv s) :
    SystemNoticeInv (subscribeAt h input cls s).1 := by
  unfold subscribeAt
  split
  · next hc =>
    refine setInput_systemNoticeInv hs fun g c hg => ?_
    rw [PerHost.get_set] at hg
    split at hg
    · cases hg
      exact classOf_le hc
    · exact hs.subscribers _ g c hg
  · exact hs

theorem removeSubscriber_systemNoticeInv {h : HostId} {i : CapId} {s : State} (hs : SystemNoticeInv s) :
    SystemNoticeInv (removeSubscriber h i s) := by
  refine withCap_systemNoticeInv (s := s.setInput i _) (setInput_systemNoticeInv hs fun g c hg => ?_) rfl
  rw [PerHost.get_set] at hg
  split at hg
  · cases hg
  · exact hs.subscribers i g c hg

theorem unsubscribeAt_systemNoticeInv {h : HostId} {input : Byte} {s : State} (hs : SystemNoticeInv s) :
    SystemNoticeInv (unsubscribeAt h input s).1 := by
  unfold unsubscribeAt
  split
  · exact hs
  · split
    · exact removeSubscriber_systemNoticeInv hs
    · exact hs

/-- Clearing gap counters leaves the subscriber sets (R144). -/
theorem clearGaps_subscribers (h : HostId) (which : Option CapId) (s : State) (i : CapId) :
    ((clearGaps h which s).input i).subscribers = (s.input i).subscribers := by
  have clear : ∀ (j : CapId) (x : CapInput),
      (if which.all fun w => w = j then { x with gaps := x.gaps.set h 0 } else x).subscribers = x.subscribers :=
    fun j x => by split <;> rfl
  match i with
  | 0 => exact clear 0 _
  | 1 => exact clear 1 _
  | 2 => exact clear 2 _
  | 3 => exact clear 3 _

theorem clearGaps_frame (h : HostId) (which : Option CapId) (s : State) :
    OnlyChanges [.cap] s (clearGaps h which s) := by simp [OnlyChanges, clearGaps]

theorem clearGaps_systemNoticeInv {h : HostId} {which : Option CapId} {s : State} (hs : SystemNoticeInv s) :
    SystemNoticeInv (clearGaps h which s) := by
  refine hs.of_frame (clearGaps_frame h which s) (by simp) (by simp) fun _ i g c hc => ?_
  rw [clearGaps_subscribers] at hc
  exact hs.subscribers i g c hc

theorem readCaptureAt_systemNoticeInv {h : HostId} {which : Byte} {s : State} (hs : SystemNoticeInv s) :
    SystemNoticeInv (readCaptureAt h which s).1 := by
  unfold readCaptureAt
  split
  · exact hs
  · dsimp only
    split
    · exact clearGaps_systemNoticeInv hs
    · exact clearGaps_systemNoticeInv (withCap_systemNoticeInv hs rfl)

/-! ### The queues -/

/-- A box whose queue holds no notice that was not queued before. -/
theorem setBox_systemNoticeInv {h : HostId} {x : NoticeBox} {s : State} (hs : SystemNoticeInv s)
    (hx : x.queue ⊆ (s.box h).queue) : SystemNoticeInv (s.setBox h x) := by
  refine hs.of_frame (setBox_frame h x s) (fun _ g n hn => ?_) (by simp) (by simp)
  rw [State.setBox_box] at hn
  split at hn
  · exact hs.queues h n (hx hn)
  · exact hs.queues g n hn

theorem takeAt_systemNoticeInv {h : HostId} {s : State} (hs : SystemNoticeInv s) :
    SystemNoticeInv (takeAt h s).1 := by
  unfold takeAt
  dsimp only
  split
  · exact hs
  · exact hs
  · next hq => exact setBox_systemNoticeInv hs (by simp [hq])

theorem ackAt_systemNoticeInv {h : HostId} {s : State} (hs : SystemNoticeInv s) :
    SystemNoticeInv (ackAt h s).1 := by
  unfold ackAt
  dsimp only
  split
  · exact setBox_systemNoticeInv hs (List.Subset.refl _)
  · exact hs

theorem setThresholdAt_systemNoticeInv {h : HostId} {v : Byte} {s : State} (hs : SystemNoticeInv s) :
    SystemNoticeInv (setThresholdAt h v s).1 := by
  unfold setThresholdAt
  split
  · exact hs
  · exact setBox_systemNoticeInv hs (List.Subset.refl _)

/-! ### The commands of the pool -/

theorem allocAt_systemNoticeInv {h : HostId} {s : State} (hs : SystemNoticeInv s) :
    SystemNoticeInv (allocAt h s).1 := by
  unfold allocAt
  split
  · exact hs
  · split
    · exact hs
    · refine setTimer_systemNoticeInv hs fun t ht => ?_
      cases ht
      exact Nat.zero_le _

theorem removeTimerNotice_systemNoticeInv {h : HostId} {i : Slot} {s : State} (hs : SystemNoticeInv s) :
    SystemNoticeInv (removeTimerNotice h i s) := setBox_systemNoticeInv hs (List.filter_subset_self _)

theorem freeAt_systemNoticeInv {h : HostId} {slot : Byte} {s : State} (hs : SystemNoticeInv s) :
    SystemNoticeInv (freeAt h slot s).1 := by
  unfold freeAt
  split
  · exact hs
  · exact setTimer_systemNoticeInv (removeTimerNotice_systemNoticeInv hs) (by simp)

theorem cancelAt_systemNoticeInv {h : HostId} {slot : Byte} {s : State} (hs : SystemNoticeInv s) :
    SystemNoticeInv (cancelAt h slot s).1 := by
  unfold cancelAt
  split
  · exact hs
  · next i t e =>
    obtain ⟨ht, -⟩ := ownedTimer_eq_ok e
    split
    · refine setTimer_systemNoticeInv hs fun u hu => ?_
      cases hu
      exact hs.timers i t ht
    · split <;> exact hs

/-- The record of an ARM takes a class that its settings give, 0 to 3 (R47). -/
theorem armPlaced_systemNoticeInv {h : HostId} {i : Slot} {old : Timer} {x : ArmSettings} {first : Int} {skipped : Nat}
    {s : State} (hs : SystemNoticeInv s) (hx : x.cls ≤ 3) :
    SystemNoticeInv (armPlaced h i old x first skipped s) := by
  obtain ⟨f, hf⟩ := armPlaced_timer h i old x first skipped s
  refine hs.of_frame (armPlaced_frame h i old x first skipped s) (by simp) (fun _ j t ht => ?_) (by simp)
  rw [hf] at ht
  split at ht
  · cases ht
    exact hx
  · obtain ⟨u, hu, rfl⟩ := Option.map_eq_some_iff.1 ht
    exact hs.timers j u hu

theorem armAt_systemNoticeInv {h : HostId} {v : ArmArg} {s : State} (hs : SystemNoticeInv s) :
    SystemNoticeInv (armAt h v s).1 := by
  rcases armAt_cases h v s with e | ⟨i, old, x, first, skipped, -, hx, -, -, e⟩
  · exact e.symm ▸ hs
  · have placed : SystemNoticeInv (armPlaced h i old x first skipped s) :=
      armPlaced_systemNoticeInv hs (armSettings_cls hx)
    rw [e]
    by_cases hf : first ≤ s.count.time
    · rw [armTimer_of_reached _ _ _ _ _ _ _ hf]
      exact expire_systemNoticeInv placed
    · rw [armTimer_of_later _ _ _ _ _ _ _ hf]
      exact placed

/-! ### Teardown and reset -/

theorem releaseAuthority_systemNoticeInv {h : HostId} {s : State} (hs : SystemNoticeInv s) :
    SystemNoticeInv (releaseAuthority h s) := by
  have left : SystemNoticeInv (leaveWaiting h s) := hs.of_other (leaveWaiting_frame h s) (by simp)
  unfold releaseAuthority
  refine SystemNoticeInv.of_other ?_ (endWaitIf_frame _ _ _) (by simp)
  split
  · exact handOver_systemNoticeInv left
  · exact left

theorem freeAll_systemNoticeInv {h : HostId} {s : State} (hs : SystemNoticeInv s) :
    SystemNoticeInv (freeAll h s) := by
  refine hs.of_frame (ps := [.pool]) (by simp [OnlyChanges, freeAll]) (by simp) (fun _ => ?_) (by simp)
  refine hs.timers.of_records fun i t ht => ?_
  rw [freeAll_timer] at ht
  split at ht
  · cases ht
  · exact ⟨t, ht, rfl⟩

theorem removeFromAll_systemNoticeInv {h : HostId} {s : State} (hs : SystemNoticeInv s) :
    SystemNoticeInv (removeFromAll h s) :=
  foldl_keeps (P := SystemNoticeInv) (fun _ _ => removeSubscriber_systemNoticeInv) _ hs

theorem unbindAll_systemNoticeInv {h : HostId} {s : State} (hs : SystemNoticeInv s) :
    SystemNoticeInv (unbindAll h s) := hs.of_other (ps := [.pins]) (by simp [OnlyChanges, unbindAll]) (by simp)

theorem teardown_systemNoticeInv {h : HostId} {s : State} (hs : SystemNoticeInv s) :
    SystemNoticeInv (teardown h s) := by
  have ended : SystemNoticeInv ((s.setPort h { s.port h with attached := false }).setBox h .initial) :=
    setBox_systemNoticeInv (hs.of_other (setPort_frame _ _ _) (by simp)) (List.nil_subset _)
  exact removeFromAll_systemNoticeInv (unbindAll_systemNoticeInv (freeAll_systemNoticeInv
    (releaseAuthority_systemNoticeInv ended)))

theorem mainDomainCleared_systemNoticeInv (s : State) : SystemNoticeInv (mainDomainCleared s) := by
  refine ⟨fun h n hn => ?_, fun i t ht => ?_, fun i h c hc => ?_⟩
  · rw [mainDomainCleared_box] at hn
    cases hn
  · rw [mainDomainCleared_timer] at ht
    cases ht
  · rw [mainDomainCleared_input] at hc
    cases h <;> cases hc

/-- A main reset restores the count and the supervisor over the cleared main domain (R174). -/
theorem mainReset_frame (s : State) : OnlyChanges [.count, .sup, .power] (mainDomainCleared s) (mainReset s) := by
  simp [OnlyChanges, mainReset]

/-! ### Every step -/

theorem requestsKeep_systemNoticeInv : RequestsKeep SystemNoticeInv := by
  intro h levels r s _ _ _ hs
  cases r with
  | attach => exact hs.of_other (attachAt_frame _ _) (by simp)
  | detach => exact teardown_systemNoticeInv hs
  | status => exact hs
  | echo data => exact hs
  | sessions => exact hs
  | readTime => exact hs
  | timeStatus => exact hs
  | setTime v => exact setTimeAt_systemNoticeInv hs
  | step v => exact stepAt_systemNoticeInv hs
  | slew v => exact hs.of_other (slewAt_frame v s) (by simp)
  | setTrim source trim => exact hs.of_other (setTrimAt_frame source trim s) (by simp)
  | setSources v => exact setSourcesAt_systemNoticeInv hs
  | sourceStatus => exact hs
  | claim lease => exact claimAt_systemNoticeInv hs
  | release => exact releaseAt_systemNoticeInv hs
  | withdraw => exact hs.of_other (withdrawAt_frame _ _) (by simp)
  | authStatus => exact hs
  | alloc => exact allocAt_systemNoticeInv hs
  | free slot => exact freeAt_systemNoticeInv hs
  | arm v => exact armAt_systemNoticeInv hs
  | cancel slot => exact cancelAt_systemNoticeInv hs
  | timerStatus slot => exact (timerStatusAt_state h slot s).symm ▸ hs
  | take => exact takeAt_systemNoticeInv hs
  | ack => exact ackAt_systemNoticeInv hs
  | peek => exact setBox_systemNoticeInv hs (List.Subset.refl _)
  | setThreshold v => exact setThresholdAt_systemNoticeInv hs
  | bindPin pin idle width => exact hs.of_other (bindPinAt_frame _ _ _ _ _) (by simp)
  | unbindPin pin => exact hs.of_other (unbindPinAt_frame _ _ _) (by simp)
  | drivePin pin action => exact hs.of_other (drivePinAt_frame _ _ _ _) (by simp)
  | pinStatus pin => exact (pinStatusAt_state pin s).symm ▸ hs
  | setEdges input selection => exact setEdgesAt_systemNoticeInv hs
  | subscribe input cls => exact subscribeAt_systemNoticeInv hs
  | unsubscribe input => exact unsubscribeAt_systemNoticeInv hs
  | readCapture which => exact readCaptureAt_systemNoticeInv hs

theorem operationsKeep_systemNoticeInv : OperationsKeep SystemNoticeInv where
  sessions _ _ _ _ hs := hs.of_other (setPort_frame _ _ _) (by simp)
  pending _ _ hs := hs
  power s x hs := hs.of_other (withPower_frame x s) (by simp)
  retained _ _ hs := hs
  requests := requestsKeep_systemNoticeInv
  advance levels s hs :=
    takeAdvance_systemNoticeInv (SystemNoticeInv.of_other (t := slewApplied s) (ps := [.count, .sup]) hs
      (by simp [OnlyChanges, slewApplied]) (by simp))
  expireHead _ hs := expireReached_systemNoticeInv hs
  endPulse p s hs := hs.of_other (endPulse_frame p s) (by simp)
  takeCapture _ hs := takeCapture_systemNoticeInv hs
  expireLease _ hs := expireLease_systemNoticeInv hs
  superviseCycle s hs := hs.of_other (superviseCycle_frame s) (by simp)
  setWatched _ _ _ hs := setWatched_systemNoticeInv hs
  loseSource _ _ _ hs := loseSource_systemNoticeInv hs
  qualify _ _ hs := qualify_systemNoticeInv hs
  endHoldOff _ _ hs := endHoldOff_systemNoticeInv hs
  timeOutWait s hs := hs.of_other (timeOutWait_frame s) (by simp)
  teardown _ _ hs := teardown_systemNoticeInv hs
  mainDomainCleared s _ := mainDomainCleared_systemNoticeInv s
  mainReset s _ := (mainDomainCleared_systemNoticeInv s).of_other (mainReset_frame s) (by simp)

end Sys2Proof.Machine

namespace Sys2Proof.Proofs

open Sys2Proof.Machine

/-- Settles O4: every operation keeps the classes; those that post notices post them in the class of their kind. -/
theorem stepKeepsSystemNotices : Obligations.StepKeepsSystemNotices := by
  unfold Obligations.StepKeepsSystemNotices
  exact fun _ _ hs h => operationsKeep_systemNoticeInv.step hs h

end Sys2Proof.Proofs
end

section
/-! The teardown of a host, block by block (R40, R59, R103, R119, R132, R146, R165). -/

namespace Sys2Proof.Machine

/-! ### The arbiter and the supervisor (R40, R119) -/

/-- `s` without a wait that runs for `h`. -/
def dropWait (h : HostId) (s : State) : State :=
  { s with sup := { s.sup with wait := s.sup.wait.filter fun w => w.host ≠ h } }

/-- A wait of `h` that ends in a teardown ends without an answer (R36, R40). -/
theorem endWait_torn (h : HostId) (s : State) :
    (if s.sup.wait.any fun w => w.host = h then endWait none s else s) = dropWait h s := by
  cases hw : s.sup.wait with
  | none =>
    rw [Option.any_none, if_neg (by simp), dropWait, hw, Option.filter_none, ← hw]
  | some w =>
    by_cases e : w.host = h
    · rw [Option.any_some, if_pos (by simpa using e), endWait_silent s hw, dropWait, hw, Option.filter_some,
        if_neg (by simpa using e)]
    · rw [Option.any_some, if_neg (by simpa using e), dropWait, hw, Option.filter_some, if_pos (by simpa using e), ← hw]

theorem dropWait_dropWait (h : HostId) (s : State) : dropWait h (dropWait h s) = dropWait h s := by
  cases hw : s.sup.wait with
  | none => simp [dropWait, hw]
  | some w => by_cases e : w.host = h <;> simp [dropWait, hw, Option.filter, e]

/-- The grant of the authority to the head waiter of `s`, or to none (R111). -/
def grantNext (s : State) : State :=
  match s.auth.waiting with
  | [] => { s with auth := ⟨none, []⟩ }
  | w :: rest => grant w.host w.lease { s with auth := { s.auth with waiting := rest } }

theorem grantNext_frame (s : State) : OnlyChanges [.auth, .notices] s (grantNext s) := by
  unfold grantNext
  split
  · simp [OnlyChanges]
  · exact OnlyChanges.trans (by simp [OnlyChanges]) (grant_frame _ _ _)

theorem handOver_torn (h : HostId) (s : State) : handOver h true s = dropWait h (grantNext s) :=
  endWait_torn h (grantNext s)

theorem grantNext_of_nil {s : State} (e : s.auth.waiting = []) : grantNext s = { s with auth := ⟨none, []⟩ } := by
  unfold grantNext
  split
  · rfl
  · next hw => cases e.symm.trans hw

theorem grantNext_of_cons {w : Waiter} {rest : List Waiter} {s : State} (e : s.auth.waiting = w :: rest) :
    grantNext s = grant w.host w.lease { s with auth := { s.auth with waiting := rest } } := by
  unfold grantNext
  split
  · next hw => cases e.symm.trans hw
  · next hw =>
    cases e.symm.trans hw
    rfl

/-- The hand-over as R111 gives it. -/
theorem grantNext_handedOver (s : State) : HandedOver s.auth.waiting (fun _ => False) s (grantNext s) := by
  refine ⟨fun e => ?_, fun w rest e => ?_⟩
  · rw [grantNext_of_nil e]
    exact ⟨rfl, fun _ _ => rfl⟩
  · rw [grantNext_of_cons e]
    refine ⟨by rw [grant_auth], fun g _ => ?_⟩
    rw [grant_postedTo]
    by_cases hg : g = w.host
    · rw [hg]
      rfl
    · rw [if_neg (by simp [hg]), if_neg (by simp [hg])]
      rfl

/-- The state of the arbiter once `h` is off the waiting list and its holding, if it holds, is handed over (R119). -/
def authorityReleased (h : HostId) (s : State) : State :=
  if holder s = some h then grantNext (leaveWaiting h s) else leaveWaiting h s

theorem authorityReleased_frame (h : HostId) (s : State) : OnlyChanges [.auth, .notices] s (authorityReleased h s) := by
  have left : OnlyChanges [.auth, .notices] s (leaveWaiting h s) := (leaveWaiting_frame h s).mono (by simp)
  unfold authorityReleased
  split
  · exact left.trans (grantNext_frame _)
  · exact left

theorem releaseAuthority_eq (h : HostId) (s : State) :
    releaseAuthority h s = dropWait h (authorityReleased h s) := by
  unfold releaseAuthority authorityReleased
  rw [endWait_torn]
  split
  · rw [handOver_torn, dropWait_dropWait]
  · rfl

theorem authorityReleased_of_not_holder {h : HostId} {s : State} (hh : holder s ≠ some h) :
    authorityReleased h s = leaveWaiting h s := if_neg hh

theorem authorityReleased_handedOver {h : HostId} {s : State} (hh : holder s = some h) :
    HandedOver (s.auth.waiting.filter fun w => w.host ≠ h) (fun _ => False) s (authorityReleased h s) := by
  rw [authorityReleased, if_pos hh]
  exact grantNext_handedOver (leaveWaiting h s)

/-! ### The capture unit (R146) -/

/-- Whether a record is owed to somebody (R138). -/
def owedToSome (r : CapRecord) : Bool := r.owed.a || r.owed.b || r.owed.c

/-- A record that `h` is owed no more. -/
def disowned (h : HostId) (r : CapRecord) : CapRecord := { r with owed := r.owed.set h false }

theorem owedToSome_of_disowned {h : HostId} {r : CapRecord} (hr : owedToSome (disowned h r) = true) :
    owedToSome r = true := by
  cases h <;> simp only [owedToSome, disowned, PerHost.set, Bool.or_eq_true, Bool.false_or, Bool.or_false] at hr ⊢ <;>
    tauto

theorem dropOwed_eq (h : HostId) (p : CapRecord → Bool) (log : List CapRecord) :
    dropOwed h p log = (log.map fun r => if p r then disowned h r else r).filter owedToSome := rfl

/-- A filter before a map is no matter to the filter after it, when the map only loses what the filter keeps. -/
theorem filter_map_filter {α : Type} {p : α → Bool} {f : α → α} (hf : ∀ x, p (f x) = true → p x = true) (l : List α) :
    ((l.filter p).map f).filter p = (l.map f).filter p := by
  rw [List.filter_map, List.filter_map, List.filter_filter]
  congr 1
  refine List.filter_congr fun x _ => ?_
  cases h : p (f x) with
  | false => simp [h]
  | true => simp [h, hf x h]

/-- Records disowned by one choice of inputs and then by another are disowned by both at once. -/
theorem dropOwed_dropOwed (h : HostId) (p q : CapId → Bool) (log : List CapRecord) :
    dropOwed h (fun r => p r.input) (dropOwed h (fun r => q r.input) log) =
      dropOwed h (fun r => q r.input || p r.input) log := by
  have loses : ∀ r : CapRecord,
      owedToSome (if p r.input then disowned h r else r) = true → owedToSome r = true := fun r hr => by
    split at hr
    · exact owedToSome_of_disowned hr
    · exact hr
  have twice : ∀ r, disowned h (disowned h r) = disowned h r := fun r => by simp [disowned]
  have input : ∀ r, (disowned h r).input = r.input := fun _ => rfl
  rw [dropOwed_eq, dropOwed_eq, dropOwed_eq, filter_map_filter loses, List.map_map]
  congr 2
  funext r
  cases hq : q r.input <;> simp [hq, input, twice]

section RemoveSubscriber

variable (h : HostId) (i : CapId) (s : State)

theorem removeSubscriber_input (j : CapId) : (removeSubscriber h i s).input j = if j = i
    then { s.input i with
      subscribers := (s.input i).subscribers.set h none, gaps := (s.input i).gaps.set h 0 }
    else s.input j := State.setInput_input _ _ _ _

theorem removeSubscriber_log :
    (removeSubscriber h i s).cap.log = dropOwed h (fun r => r.input = i) s.cap.log := rfl

@[simp] theorem removeSubscriber_serial : (removeSubscriber h i s).cap.serial = s.cap.serial := rfl
@[simp] theorem removeSubscriber_seen : (removeSubscriber h i s).cap.seen = s.cap.seen := rfl

end RemoveSubscriber

section RemoveFromAll

variable (h : HostId) (s : State)

theorem removeFromAll_eq : removeFromAll h s =
    removeSubscriber h 3 (removeSubscriber h 2 (removeSubscriber h 1 (removeSubscriber h 0 s))) := rfl

theorem removeFromAll_frame : OnlyChanges [.cap] s (removeFromAll h s) :=
  OnlyChanges.foldl (fun s i => removeSubscriber_frame h i s) _ s

theorem removeFromAll_input (i : CapId) : (removeFromAll h s).input i = { s.input i with
    subscribers := (s.input i).subscribers.set h none, gaps := (s.input i).gaps.set h 0 } := by
  rw [removeFromAll_eq]
  simp only [removeSubscriber_input]
  match i with
  | 0 => rfl
  | 1 => rfl
  | 2 => rfl
  | 3 => rfl

theorem removeFromAll_log : (removeFromAll h s).cap.log = dropOwed h (fun _ => true) s.cap.log := by
  have every : ∀ i : CapId, ((decide (i = 0) || decide (i = 1)) || decide (i = 2) || decide (i = 3)) = true := by
    decide
  rw [removeFromAll_eq, removeSubscriber_log, removeSubscriber_log, removeSubscriber_log, removeSubscriber_log,
    dropOwed_dropOwed h (fun i => i = 1) (fun i => i = 0),
    dropOwed_dropOwed h (fun i => i = 2) (fun i => decide (i = 0) || decide (i = 1)),
    dropOwed_dropOwed h (fun i => i = 3) (fun i => (decide (i = 0) || decide (i = 1)) || decide (i = 2))]
  simp only [every]

end RemoveFromAll

/-! ### The whole teardown -/

/-- `s` with the session of `h` ended and its queue cleared. -/
def sessionEnded (h : HostId) (s : State) : State :=
  (s.setPort h { s.port h with attached := false }).setBox h .initial

/-- The arbiter, the boxes and the wait after a teardown of `h` (R40, R119). -/
def authorityTorn (h : HostId) (s : State) : State := authorityReleased h (sessionEnded h s)

/-- `s` once all of `h` is released but its subscriptions. -/
def released (h : HostId) (s : State) : State := unbindAll h (freeAll h (dropWait h (authorityTorn h s)))

theorem teardown_eq (h : HostId) (s : State) : teardown h s = removeFromAll h (released h s) := by
  rw [released, authorityTorn, ← releaseAuthority_eq]
  rfl

/-- The last part of a teardown works on the capture unit alone. -/
theorem teardown_released_frame (h : HostId) (s : State) : OnlyChanges [.cap] (released h s) (teardown h s) := by
  rw [teardown_eq]
  exact removeFromAll_frame h _

theorem authorityTorn_frame (h : HostId) (s : State) :
    OnlyChanges [.auth, .notices] (sessionEnded h s) (authorityTorn h s) := authorityReleased_frame _ _

section Teardown

variable (h : HostId) (s : State)

/-- The teardown ends the session and leaves the rest of the ports (R165). -/
theorem teardown_ports : (teardown h s).ports = s.ports.set h { s.port h with attached := false } := by
  obtain ⟨-, -, -, -, -, -, -, hports, -⟩ := authorityTorn_frame h s
  obtain ⟨-, -, -, -, -, -, -, hports', -⟩ := teardown_released_frame h s
  rw [hports' (by simp)]
  exact hports (by simp)

theorem teardown_port (g : HostId) :
    (teardown h s).port g = if g = h then { s.port h with attached := false } else s.port g := by
  rw [State.port, teardown_ports, PerHost.get_set]
  rfl

theorem teardown_attached (g : HostId) :
    (teardown h s).attached g = if g = h then false else s.attached g := by
  rw [State.attached, teardown_port]
  split <;> rfl

theorem teardown_auth : (teardown h s).auth = (authorityTorn h s).auth := by
  obtain ⟨-, -, -, -, hauth, -⟩ := teardown_released_frame h s
  exact hauth (by simp)

theorem teardown_notices : (teardown h s).notices = (authorityTorn h s).notices := by
  obtain ⟨-, -, -, hnotices, -⟩ := teardown_released_frame h s
  exact hnotices (by simp)

theorem teardown_box (g : HostId) : (teardown h s).box g = (authorityTorn h s).box g := by
  rw [State.box, teardown_notices]
  rfl

theorem teardown_sup :
    (teardown h s).sup = { s.sup with wait := s.sup.wait.filter fun w => w.host ≠ h } := by
  obtain ⟨-, hsup, -⟩ := authorityTorn_frame h s
  obtain ⟨-, hsup', -⟩ := teardown_released_frame h s
  rw [hsup' (by simp)]
  show (dropWait h (authorityTorn h s)).sup = _
  rw [dropWait, hsup (by simp)]
  rfl

theorem teardown_pool : (teardown h s).pool = (freeAll h s).pool := by
  obtain ⟨-, -, hpool, -⟩ := authorityTorn_frame h s
  obtain ⟨-, -, hpool', -⟩ := teardown_released_frame h s
  rw [hpool' (by simp)]
  show mapTimers _ (authorityTorn h s).pool = mapTimers _ s.pool
  rw [hpool (by simp)]
  rfl

theorem teardown_pins : (teardown h s).pins = (unbindAll h s).pins := by
  obtain ⟨-, -, -, -, -, hpins, -⟩ := authorityTorn_frame h s
  obtain ⟨-, -, -, -, -, hpins', -⟩ := teardown_released_frame h s
  have unbound : ∀ u v : State, u.pins = v.pins → (unbindAll h u).pins = (unbindAll h v).pins := fun u v e => by
    simp only [unbindAll, e]
  rw [hpins' (by simp)]
  exact unbound _ _ (hpins (by simp))

/-- Every slot of `h` is FREE, the others stand (R59). -/
theorem teardown_timer (i : Slot) : (teardown h s).timer i = (s.timer i).filter fun x => x.owner ≠ h := by
  rw [State.timer, teardown_pool]
  show (freeAll h s).timer i = _
  rw [freeAll_timer]
  cases hx : s.timer i with
  | none => simp
  | some x => by_cases e : x.owner = h <;> simp [Option.filter, e]

/-- Every pin of `h` is unbound, the others stand (R132). -/
theorem teardown_pin (p : PinId) : (teardown h s).pin p = (s.pin p).filter fun r => r.owner ≠ h := by
  rw [State.pin, teardown_pins, unbindAll]
  show (s.pins.map _).get p = (s.pins.get p).filter _
  rw [Quad.get_map]
  cases hx : s.pins.get p with
  | none => simp
  | some r => by_cases e : r.owner = h <;> simp [Option.filter, e]

/-- The inputs that the subscriptions are removed from are those of `s`. -/
theorem teardown_cap : ∃ u : State, u.cap = s.cap ∧ (teardown h s) = removeFromAll h u := by
  obtain ⟨-, -, -, -, -, -, hcap, -⟩ := authorityTorn_frame h s
  exact ⟨released h s, hcap (by simp), teardown_eq h s⟩

theorem teardown_input (i : CapId) : (teardown h s).input i = { s.input i with
    subscribers := (s.input i).subscribers.set h none, gaps := (s.input i).gaps.set h 0 } := by
  obtain ⟨u, hcap, e⟩ := teardown_cap h s
  have hinput : u.input i = s.input i := by rw [State.input, hcap]; rfl
  rw [e, removeFromAll_input, hinput]

theorem teardown_log : (teardown h s).cap.log = dropOwed h (fun _ => true) s.cap.log := by
  obtain ⟨u, hcap, e⟩ := teardown_cap h s
  rw [e, removeFromAll_log, hcap]

theorem teardown_serial : (teardown h s).cap.serial = s.cap.serial := by
  obtain ⟨u, hcap, e⟩ := teardown_cap h s
  rw [e, removeFromAll_eq]
  simp only [removeSubscriber_serial, hcap]

theorem teardown_seen : (teardown h s).cap.seen = s.cap.seen := by
  obtain ⟨u, hcap, e⟩ := teardown_cap h s
  rw [e, removeFromAll_eq]
  simp only [removeSubscriber_seen, hcap]

/-- No notice reaches the host torn down, since its session has ended (R89, R103). -/
theorem teardown_box_self : (teardown h s).box h = .initial := by
  have ended : (sessionEnded h s).box h = .initial := State.setBox_box_self _ _ _
  have detached : (sessionEnded h s).attached h = false := by simp [sessionEnded, State.setPort_attached]
  rw [teardown_box, authorityTorn]
  by_cases hh : holder (sessionEnded h s) = some h
  · obtain ⟨hnil, hcons⟩ := authorityReleased_handedOver hh
    cases hw : (sessionEnded h s).auth.waiting.filter fun w => w.host ≠ h with
    | nil =>
      obtain ⟨-, hbox⟩ := hnil hw
      rw [hbox h id, ended]
    | cons w rest =>
      obtain ⟨-, hbox⟩ := hcons w rest hw
      rw [hbox h id, detached, if_neg (by simp), ended]
  · rw [authorityReleased_of_not_holder hh]
    exact ended

/-- A host that does not hold the authority leaves the waiting list, and no notice is posted (R119). -/
theorem teardown_of_not_holder (hh : holder s ≠ some h) :
    (teardown h s).auth = { s.auth with waiting := s.auth.waiting.filter fun w => w.host ≠ h } ∧
      ∀ g, g ≠ h → (teardown h s).box g = s.box g := by
  have hh' : holder (sessionEnded h s) ≠ some h := hh
  refine ⟨?_, fun g hg => ?_⟩
  · rw [teardown_auth, authorityTorn, authorityReleased_of_not_holder hh']
    rfl
  · rw [teardown_box, authorityTorn, authorityReleased_of_not_holder hh']
    show ((s.setPort h _).setBox h _).box g = _
    rw [State.setBox_box, if_neg hg, State.setPort_box]

/-- The holder hands the authority over (R111, R119). -/
theorem teardown_of_holder (hh : holder s = some h) :
    HandedOver (s.auth.waiting.filter fun w => w.host ≠ h) (· = h) s (teardown h s) := by
  have hbox : ∀ g, g ≠ h → (sessionEnded h s).box g = s.box g := fun g hg => by
    rw [sessionEnded, State.setBox_box, if_neg hg, State.setPort_box]
  have hatt : ∀ g, g ≠ h → (sessionEnded h s).attached g = s.attached g := fun g hg => by
    rw [sessionEnded, State.setBox_attached, State.setPort_attached, if_neg hg]
  obtain ⟨hnil, hcons⟩ := authorityReleased_handedOver (s := sessionEnded h s) hh
  refine ⟨fun e => ?_, fun w rest e => ?_⟩
  · obtain ⟨hauth, hother⟩ := hnil e
    refine ⟨by rw [teardown_auth]; exact hauth, fun g hg => ?_⟩
    rw [teardown_box, authorityTorn, hother g id, hbox g hg]
  · obtain ⟨hauth, hother⟩ := hcons w rest e
    refine ⟨by rw [teardown_auth]; exact hauth, fun g hg => ?_⟩
    rw [teardown_box, authorityTorn, hother g id, hbox g hg, hatt g hg]
    rfl

/-- The teardown releases all that its rule names, and nothing else. -/
theorem teardown_tornDown : TornDown h s (teardown h s) := by
  obtain ⟨hcount, -, -, -, -, -, -, -, hret, hpower, hpending⟩ := teardown_frame h s
  refine ⟨by rw [teardown_attached, if_pos rfl], fun g hg => by rw [teardown_port, if_neg hg], teardown_box_self h s,
    teardown_timer h s, by rw [teardown_pool]; rfl, teardown_pin h s, teardown_input h s, teardown_log h s,
    teardown_serial h s, teardown_seen h s, teardown_sup h s, teardown_of_not_holder h s, teardown_of_holder h s,
    hcount (by simp), hret (by simp), hpower (by simp), hpending⟩

end Teardown

end Sys2Proof.Machine
end

section
/-! The pool and the pins: every operation keeps the records of timers and pins consistent (R41, R42, R47, R121,
R122). -/

namespace Sys2Proof.Machine

/-! ### The conditions of one record -/

/-- What `PoolInv` asks of the record of an allocated timer (R41, R42, R47, R122). -/
def TimerOk (s : State) (t : Timer) : Prop :=
  s.attached t.owner = true ∧ t.cls ≤ 3 ∧ t.fire ≤ 65535 ∧ t.missed ≤ 65535 ∧
    (∀ p, t.kind = .periodic p → 10000 ≤ p ∧ p ≤ 1000000000000000) ∧
    (t.armed.isSome → t.basis = .absolute → s.count.setState ≠ .unset) ∧
    (t.armed.isSome → ∀ u, t.action = some u → ∃ r, s.pin u.pin = some r ∧ r.owner = t.owner)

/-- What `PoolInv` asks of the record of a bound pin (R121). -/
def PinOk (s : State) (r : PinRecord) : Prop := s.attached r.owner = true ∧ 1 ≤ r.width ∧ r.width ≤ 65535

theorem poolInv_iff (s : State) : PoolInv s ↔ (∀ h, allocationCount s h ≤ 32) ∧
    (∀ i t, s.timer i = some t → TimerOk s t) ∧ ∀ p r, s.pin p = some r → PinOk s r := Iff.rfl

theorem PoolInv.allotment {s : State} (hs : PoolInv s) (h : HostId) : allocationCount s h ≤ 32 :=
  ((poolInv_iff s).1 hs).1 h

theorem PoolInv.timerOk {s : State} (hs : PoolInv s) {i : Slot} {t : Timer} (ht : s.timer i = some t) :
    TimerOk s t := by
  obtain ⟨-, htimer, -⟩ := (poolInv_iff s).1 hs
  exact htimer i t ht

theorem PoolInv.pinOk {s : State} (hs : PoolInv s) {p : PinId} {r : PinRecord} (hr : s.pin p = some r) :
    PinOk s r := by
  obtain ⟨-, -, hpin⟩ := (poolInv_iff s).1 hs
  exact hpin p r hr

/-- A host owns no more slots when every slot it owns was its own before (R41). -/
theorem allocationCount_le {s t : State} {h : HostId}
    (hown : ∀ i y, t.timer i = some y → y.owner = h → ∃ x, s.timer i = some x ∧ x.owner = h) :
    allocationCount t h ≤ allocationCount s h := by
  refine (List.monotone_filter_right allSlots fun i hi => ?_).length_le
  obtain ⟨y, hy, ho⟩ : ∃ y, t.timer i = some y ∧ y.owner = h := by simpa [Option.any_eq_true] using hi
  obtain ⟨x, hx, hxo⟩ := hown i y hy ho
  simp [hx, hxo]

/-- The record `y` is `x` in a later condition: its settings stand, its counters stay in range, and it is ARMED only if
`x` was. -/
structure Timer.Follows (x y : Timer) : Prop where
  owner : y.owner = x.owner
  kind : y.kind = x.kind
  basis : y.basis = x.basis
  cls : y.cls = x.cls
  action : y.action = x.action
  armed : y.armed.isSome → x.armed.isSome
  fire : x.fire ≤ 65535 → y.fire ≤ 65535
  missed : x.missed ≤ 65535 → y.missed ≤ 65535

theorem Timer.Follows.refl (x : Timer) : x.Follows x := ⟨rfl, rfl, rfl, rfl, rfl, id, id, id⟩

/-- What a pin's record says of its binding (R121). -/
def binding (r : PinRecord) : HostId × Nat := (r.owner, r.width)

/-- Every pin is bound to the same host, with the same width. -/
def BindingsKept (s t : State) : Prop := ∀ p, (t.pin p).map binding = (s.pin p).map binding

theorem BindingsKept.of_eq {s t : State} (h : t.pins = s.pins) : BindingsKept s t := fun p => by
  rw [State.pin, State.pin, h]

/-- An operation on every pin record that leaves its binding. -/
theorem BindingsKept.of_map {s t : State} {f : PinRecord → PinRecord} (hf : ∀ r, binding (f r) = binding r)
    (h : ∀ p, t.pin p = (s.pin p).map f) : BindingsKept s t := fun p => by
  rw [h, Option.map_map]
  congr
  funext r
  exact hf r

theorem BindingsKept.some_left {s t : State} (h : BindingsKept s t) {p : PinId} {r : PinRecord}
    (hr : t.pin p = some r) : ∃ r0, s.pin p = some r0 ∧ binding r0 = binding r := by
  have e := h p
  rw [hr, Option.map_some, eq_comm, Option.map_eq_some_iff] at e
  exact e

theorem BindingsKept.some_right {s t : State} (h : BindingsKept s t) {p : PinId} {r0 : PinRecord}
    (hr : s.pin p = some r0) : ∃ r, t.pin p = some r ∧ binding r = binding r0 := by
  have e := h p
  rw [hr, Option.map_some, Option.map_eq_some_iff] at e
  exact e

/-- A later condition of a record, among sessions and pins that stand, is as consistent. -/
theorem TimerOk.of_follows {s t : State} {x y : Timer} (hx : TimerOk s x) (hy : x.Follows y)
    (hatt : s.attached x.owner = true → t.attached x.owner = true)
    (hset : t.count.setState = .unset → s.count.setState = .unset) (hpins : BindingsKept s t) : TimerOk t y := by
  obtain ⟨hown, hcls, hfire, hmissed, hperiod, habs, hpin⟩ := hx
  refine ⟨hy.owner ▸ hatt hown, hy.cls ▸ hcls, hy.fire hfire, hy.missed hmissed, fun p hp => hperiod p (hy.kind ▸ hp),
    fun ha hb hu => habs (hy.armed ha) (hy.basis ▸ hb) (hset hu), fun ha u hu => ?_⟩
  obtain ⟨r, hr, ho⟩ := hpin (hy.armed ha) u (hy.action ▸ hu)
  obtain ⟨r', hr', e⟩ := hpins.some_right hr
  exact ⟨r', hr', by rw [hy.owner, ← ho]; exact congrArg Prod.fst e⟩

/-! ### What keeps the invariant -/

/-- Records in later conditions, sessions that stand, a count that does not become UNSET, pins that stay bound. -/
theorem PoolInv.of_follows {s t : State} (hs : PoolInv s)
    (htimer : ∀ i y, t.timer i = some y → ∃ x, s.timer i = some x ∧ x.Follows y)
    (hatt : ∀ g, s.attached g = true → t.attached g = true)
    (hset : t.count.setState = .unset → s.count.setState = .unset) (hpins : BindingsKept s t) : PoolInv t := by
  refine (poolInv_iff t).2 ⟨fun h => ?_, fun i y hy => ?_, fun p r hr => ?_⟩
  · refine (allocationCount_le fun i y hy ho => ?_).trans (hs.allotment h)
    obtain ⟨x, hx, hxy⟩ := htimer i y hy
    exact ⟨x, hx, hxy.owner ▸ ho⟩
  · obtain ⟨x, hx, hxy⟩ := htimer i y hy
    exact (hs.timerOk hx).of_follows hxy (hatt _) hset hpins
  · obtain ⟨r0, hr0, e⟩ := hpins.some_left hr
    obtain ⟨hown, hlo, hhi⟩ := hs.pinOk hr0
    obtain ⟨ho, hw⟩ := Prod.mk.inj e
    exact ⟨ho ▸ hatt _ hown, hw ▸ hlo, hw ▸ hhi⟩

theorem timers_follow_of_eq {s t : State} (h : t.pool = s.pool) :
    ∀ i y, t.timer i = some y → ∃ x, s.timer i = some x ∧ x.Follows y := fun i y hy => by
  rw [State.timer, h] at hy
  exact ⟨y, hy, .refl y⟩

/-- An operation on every record that takes it to a later condition. -/
theorem timers_follow_of_map {s t : State} {f : Timer → Timer} (hf : ∀ x : Timer, x.Follows (f x))
    (h : ∀ i, t.timer i = (s.timer i).map f) :
    ∀ i y, t.timer i = some y → ∃ x, s.timer i = some x ∧ x.Follows y := fun i y hy => by
  rw [h, Option.map_eq_some_iff] at hy
  obtain ⟨x, hx, rfl⟩ := hy
  exact ⟨x, hx, hf x⟩

/-- A session seen through a frame that leaves the ports. -/
theorem OnlyChanges.attached {ps : List Part} {s t : State} (hf : OnlyChanges ps s t) (hp : .ports ∉ ps)
    (g : HostId) : t.attached g = s.attached g := by
  obtain ⟨-, -, -, -, -, -, -, hports, -⟩ := hf
  rw [State.attached, State.attached, State.port, State.port, hports hp]

/-- What changes neither the count, the pool nor the pins keeps them consistent while the sessions stand. -/
theorem PoolInv.of_frame {ps : List Part} {s t : State} (hs : PoolInv s) (hf : OnlyChanges ps s t)
    (hps : [.count, .pool, .pins].Disjoint ps) (hatt : ∀ g, t.attached g = s.attached g) : PoolInv t := by
  obtain ⟨hcount, -, hpool, -, -, hpins, -⟩ := hf
  have hc : t.count = s.count := hcount (hps (by simp))
  exact hs.of_follows (timers_follow_of_eq (hpool (hps (by simp)))) (fun g => (hatt g).symm ▸ id)
    (by rw [hc]; exact id) (.of_eq (hpins (hps (by simp))))

/-- The same for what leaves the ports too. -/
theorem PoolInv.of_other {ps : List Part} {s t : State} (hs : PoolInv s) (hf : OnlyChanges ps s t)
    (hps : [.count, .pool, .pins, .ports].Disjoint ps) : PoolInv t :=
  hs.of_frame hf (List.disjoint_of_subset_left (by simp) hps) (hf.attached (hps (by simp)))

/-- A change of the pins that leaves their bindings. -/
theorem PoolInv.of_pins {s t : State} (hs : PoolInv s) (hf : OnlyChanges [.pins] s t) (hpins : BindingsKept s t) :
    PoolInv t := by
  obtain ⟨hcount, -, hpool, -⟩ := id hf
  have hc : t.count = s.count := hcount (by simp)
  exact hs.of_follows (timers_follow_of_eq (hpool (by simp))) (fun g => (hf.attached (by simp) g).symm ▸ id)
    (by rw [hc]; exact id) hpins

/-- A change of the pool that takes its records to later conditions. -/
theorem PoolInv.of_pool {s t : State} (hs : PoolInv s) (hf : OnlyChanges [.pool] s t)
    (htimer : ∀ i y, t.timer i = some y → ∃ x, s.timer i = some x ∧ x.Follows y) : PoolInv t := by
  obtain ⟨hcount, -, -, -, -, hpins, -⟩ := id hf
  have hc : t.count = s.count := hcount (by simp)
  exact hs.of_follows htimer (fun g => (hf.attached (by simp) g).symm ▸ id) (by rw [hc]; exact id)
    (.of_eq (hpins (by simp)))

/-- Without timers and pins there is nothing to be consistent (R60, R121). -/
theorem PoolInv.of_empty {s : State} (ht : ∀ i, s.timer i = none) (hp : ∀ p, s.pin p = none) : PoolInv s := by
  refine (poolInv_iff s).2 ⟨fun h => ?_, fun i t e => ?_, fun p r e => ?_⟩
  · simp [allocationCount, ht]
  · rw [ht] at e
    cases e
  · rw [hp] at e
    cases e

/-- A consistent record written to a slot that its owner has already. -/
theorem setTimer_poolInv {i : Slot} {y : Timer} {s : State} (hs : PoolInv s) (hy : TimerOk s y)
    (ho : ∃ x, s.timer i = some x ∧ x.owner = y.owner) : PoolInv (s.setTimer i (some y)) := by
  refine (poolInv_iff _).2 ⟨fun h => ?_, fun j t ht => ?_, fun p r hr => hs.pinOk hr⟩
  · refine (allocationCount_le fun j t ht hth => ?_).trans (hs.allotment h)
    rw [State.setTimer_timer] at ht
    split at ht
    · next hj =>
      cases ht
      obtain ⟨x, hx, hxo⟩ := ho
      exact ⟨x, hj ▸ hx, hxo.trans hth⟩
    · exact ⟨t, ht, hth⟩
  · rw [State.setTimer_timer] at ht
    split at ht
    · cases ht
      exact hy
    · exact hs.timerOk ht

/-- A slot's record taken to a later condition. -/
theorem setTimer_follows_poolInv {i : Slot} {x y : Timer} {s : State} (hs : PoolInv s) (hx : s.timer i = some x)
    (hy : x.Follows y) : PoolInv (s.setTimer i (some y)) :=
  setTimer_poolInv hs ((hs.timerOk hx).of_follows hy id id fun _ => rfl) ⟨x, hx, hy.owner.symm⟩

theorem freeSlot_poolInv {i : Slot} {s : State} (hs : PoolInv s) : PoolInv (s.setTimer i none) := by
  refine hs.of_pool (setTimer_frame i none s) fun j y hy => ?_
  rw [State.setTimer_timer] at hy
  split at hy
  · cases hy
  · exact ⟨y, hy, .refl y⟩

/-- A pin's record written: consistent, and bound to the owner of every ARMED timer that names the pin (R47, R122). -/
theorem setPin_poolInv {p : PinId} {x : Option PinRecord} {s : State} (hs : PoolInv s)
    (hx : ∀ r, x = some r → PinOk s r)
    (hnamed : ∀ i t u, s.timer i = some t → t.armed.isSome → t.action = some u → u.pin = p →
      ∃ r, x = some r ∧ r.owner = t.owner) : PoolInv (s.setPin p x) := by
  refine (poolInv_iff _).2 ⟨hs.allotment, fun i t ht => ?_, fun q r hr => ?_⟩
  · obtain ⟨hown, hcls, hfire, hmissed, hperiod, habs, hpin⟩ := hs.timerOk ht
    refine ⟨hown, hcls, hfire, hmissed, hperiod, habs, fun ha u hu => ?_⟩
    rw [State.setPin_pin]
    split
    · next e => exact hnamed i t u ht ha hu e
    · exact hpin ha u hu
  · rw [State.setPin_pin] at hr
    split at hr
    · exact hx r hr
    · exact hs.pinOk hr

/-! ### Expiries -/

theorem settle_follows {t : Timer} {x : Arming} (now : Nat) (hx : t.armed = some x) : t.Follows (t.settle x now) := by
  have armed : t.armed.isSome := by simp [hx]
  unfold Timer.settle
  split
  · exact ⟨rfl, rfl, rfl, rfl, rfl, fun _ => armed, id, id⟩
  · have counted : ∀ n, saturate count16 n ≤ 65535 := fun n => Nat.min_le_left _ _
    dsimp only
    split
    · exact ⟨rfl, rfl, rfl, rfl, rfl, fun _ => armed, id, fun _ => counted _⟩
    · exact ⟨rfl, rfl, rfl, rfl, rfl, fun _ => armed, id, fun _ => counted _⟩

theorem Timer.Follows.of_fire {t y : Timer} (h : ({ t with fire := saturate count16 (t.fire + 1) } : Timer).Follows y) :
    t.Follows y :=
  ⟨h.owner, h.kind, h.basis, h.cls, h.action, h.armed, fun _ => h.fire (Nat.min_le_left _ _), h.missed⟩

theorem movedBy_follows (d : Int) (t : Timer) : t.Follows (movedBy d t) := by
  unfold movedBy
  split
  · exact ⟨rfl, rfl, rfl, rfl, rfl, by simp, id, id⟩
  · exact .refl t

theorem reseq_follows (f : Nat → Nat) (t : Timer) : t.Follows (t.reseq f) :=
  ⟨rfl, rfl, rfl, rfl, rfl, by simp [Timer.reseq], id, id⟩

@[simp] theorem binding_apply (r : PinRecord) (a : PinAction) (o : ActionOrigin) (now : Nat) :
    binding (r.apply a o now) = binding r := by
  cases a <;> rfl

@[simp] theorem binding_pulseMovedBy (d : Int) (r : PinRecord) : binding (pulseMovedBy d r) = binding r := rfl

theorem applyAction_poolInv {p : PinId} {a : PinAction} {o : ActionOrigin} {s : State} (hs : PoolInv s) :
    PoolInv (applyAction p a o s) := by
  refine hs.of_pins (applyAction_frame p a o s) fun q => ?_
  rw [applyAction_pin]
  split
  · next e =>
    rw [e, Option.map_map]
    congr
    funext r
    exact binding_apply r a o _
  · rfl

theorem expire_poolInv {i : Slot} {late : Bool} {now : Nat} {s : State} (hs : PoolInv s) :
    PoolInv (expire i late now s) := by
  cases ht : s.timer i with
  | none =>
    have idle : expire i late now s = s := by unfold expire; simp only [ht]
    exact idle.symm ▸ hs
  | some t =>
    cases hx : t.armed with
    | none =>
      have idle : expire i late now s = s := by unfold expire; simp only [ht, hx]
      exact idle.symm ▸ hs
    | some x =>
      obtain ⟨acted, rfl, heq⟩ := expire_of_armed (now := now) late ht hx
      have hacted : PoolInv (t.action.elim s fun y => applyAction y.pin y.action (.slot i) s) := by
        cases t.action with
        | none => exact hs
        | some u => exact applyAction_poolInv hs
      have htimer : (t.action.elim s fun y => applyAction y.pin y.action (.slot i) s).timer i = some t := by
        cases t.action with
        | none => exact ht
        | some u => simpa [State.timer] using ht
      have follows : t.Follows (Timer.settle { t with fire := min 65535 (t.fire + 1) } x now) :=
        .of_fire (settle_follows now hx)
      rw [heq]
      split
      · exact setTimer_follows_poolInv (hacted.of_other (post_frame _ _ _) (by simp)) (by rwa [post_timer]) follows
      · exact setTimer_follows_poolInv hacted htimer follows

theorem expireReached_poolInv {n : Nat} {late : Bool} {now : Nat} {s : State} (hs : PoolInv s) :
    PoolInv (expireReached n late now s) := by
  induction n generalizing s with
  | zero => exact hs
  | succ n ih =>
    unfold expireReached
    split
    · split
      · exact ih (expire_poolInv hs)
      · exact hs
    · exact hs

theorem moveElapsed_poolInv {d : Int} {s : State} (hs : PoolInv s) : PoolInv (moveElapsed (· + d) s) :=
  hs.of_pool (moveElapsed_frame _ s) (timers_follow_of_map (movedBy_follows d) (moveElapsed_add_timer d s))

theorem stepRecognition_poolInv {d : Int} {before : Nat} {s : State} (hs : PoolInv s) :
    PoolInv (stepRecognition d before s) := by
  have moved : PoolInv (leftoverMoved d before s) := moveElapsed_poolInv (expireReached_poolInv hs)
  by_cases hd : 0 < d
  · rw [stepRecognition_of_pos hd]
    exact expireReached_poolInv moved
  · rw [stepRecognition_of_not_pos hd]
    exact moved

theorem endPulse_poolInv {p : PinId} {s : State} (hs : PoolInv s) : PoolInv (endPulse p s) := by
  refine hs.of_pins (endPulse_frame p s) fun q => ?_
  unfold endPulse
  split
  · next r hr =>
    split
    · split
      · rw [State.setPin_pin]
        split
        · next e =>
          rw [e, hr]
          rfl
        · rfl
      · rfl
    · rfl
  · rfl

/-! ### The count -/

theorem takeAdvance_poolInv {m : Nat} {levels : Quad Level} {s : State} (hs : PoolInv s) :
    PoolInv (takeAdvance m levels s) := by
  have moved : PoolInv (moveCount m s) := by
    rcases Nat.lt_or_ge (fineCount s + m) countLimit with h | h
    · rw [moveCount_of_lt _ _ h]
      have frame := reachCount_frame (fineCount s + m) s
      obtain ⟨-, -, hpool, -, -, hpins, -⟩ := id frame
      exact hs.of_follows (timers_follow_of_eq (hpool (by simp)))
        (fun g => (frame.attached (by simp) g).symm ▸ id) (by rw [reachCount_count]; exact id)
        (.of_eq (hpins (by simp)))
    · rw [moveCount_of_le _ _ h]
      exact hs.of_follows (timers_follow_of_map (movedBy_follows _) (holdCount_timer _ s))
        (fun g => ((holdCount_frame _ s).attached (by simp) g).symm ▸ id) (by rw [holdCount_count]; exact id)
        (.of_map (binding_pulseMovedBy _) (holdCount_pin _ s))
  exact moved.of_other (takeAdvance_rest_frame m levels s) (by simp)

/-- The first set leaves UNSET (R11). -/
theorem firstSet_poolInv {value : Nat} {s : State} (hs : PoolInv s) : PoolInv (firstSet value s) :=
  hs.of_follows (timers_follow_of_map (movedBy_follows _) (firstSet_timer value s))
    (fun g => ((firstSet_frame value s).attached (by simp) g).symm ▸ id)
    (by rw [firstSet_count]; exact fun c => by cases c)
    (.of_map (binding_pulseMovedBy _) (firstSet_pin value s))

theorem applyStep_poolInv {d : Int} {clearResidue : Bool} {s : State} (hs : PoolInv s) :
    PoolInv (applyStep d clearResidue s) := by
  have taken : PoolInv (stepTaken d clearResidue s) :=
    hs.of_follows (timers_follow_of_eq rfl)
      (fun g => ((stepTaken_frame d clearResidue s).attached (by simp) g).symm ▸ id) (fun c => by cases c)
      (.of_map (binding_pulseMovedBy d) (stepTaken_pin d clearResidue s))
  by_cases hd : d = 0
  · subst hd
    exact taken
  · rw [applyStep_of_ne _ _ _ hd]
    exact stepRecognition_poolInv (taken.of_other (postAll_frame _ _) (by simp))

theorem setTimeAt_poolInv {v : TimeArg} {s : State} (hs : PoolInv s) : PoolInv (setTimeAt v s).1 := by
  unfold setTimeAt
  split
  · exact hs
  · split
    · exact firstSet_poolInv hs
    · exact applyStep_poolInv hs

theorem stepAt_poolInv {v : StepArg} {s : State} (hs : PoolInv s) : PoolInv (stepAt v s).1 := by
  unfold stepAt
  split
  · exact hs
  · split
    · exact hs
    · dsimp only
      split
      · exact applyStep_poolInv hs
      · exact hs

/-- SLEW leaves the set state (R16). -/
theorem slewAt_poolInv {v : BitVec 64} {s : State} (hs : PoolInv s) : PoolInv (slewAt v s).1 := by
  unfold slewAt
  split
  · exact hs
  · split
    · exact hs
    · exact hs.of_follows (timers_follow_of_eq rfl) (fun _ => id) id (.of_eq rfl)

/-! ### The supervisor and the arbiter -/

theorem endWait_attached (r : Option Reply) (s : State) (g : HostId) : (endWait r s).attached g = s.attached g := by
  unfold endWait
  split
  · rfl
  · dsimp only
    split
    · rw [holdAnswer_attached]
      rfl
    · rfl

theorem endWait_poolInv {r : Option Reply} {s : State} (hs : PoolInv s) : PoolInv (endWait r s) :=
  hs.of_frame (endWait_frame r s).1 (by simp) (endWait_attached r s)

theorem endWaitIf_poolInv {p : Prop} [Decidable p] {r : Option Reply} {s : State} (hs : PoolInv s) :
    PoolInv (if p then endWait r s else s) := by
  split
  · exact endWait_poolInv hs
  · exact hs

theorem setWatched_poolInv {w : Watched} {x : SourceState} {s : State} (hs : PoolInv s) :
    PoolInv (s.setWatched w x) := hs.of_other (setWatched_frame w x s) (by simp)

theorem loseSource_poolInv {w : Watched} {levels : Quad Level} {s : State} (hs : PoolInv s) :
    PoolInv (loseSource w levels s) := by
  have failed : PoolInv (s.setWatched w .failed) := setWatched_poolInv hs
  unfold loseSource
  split
  · refine endWaitIf_poolInv ?_
    split
    · exact ((takeAdvance_poolInv failed).of_other (withSup_frame _ _) (by simp)).of_other (postAll_frame _ _) (by simp)
    · split
      · exact failed.of_other (withSup_frame _ _) (by simp)
      · exact failed
  · exact hs

theorem qualify_poolInv {w : Watched} {s : State} (hs : PoolInv s) : PoolInv (qualify w s) := by
  unfold qualify
  split
  · split
    · dsimp only
      split
      · exact endWait_poolInv ((setWatched_poolInv hs).of_other (selectWithNotice_frame _ _ _ _) (by simp))
      · split
        · exact (setWatched_poolInv hs).of_other (switchTo_frame _ _) (by simp)
        · exact setWatched_poolInv hs
    · exact hs
  · exact hs

theorem timeOutWait_poolInv {s : State} (hs : PoolInv s) : PoolInv (timeOutWait s) := by
  unfold timeOutWait
  split
  · split
    · exact endWait_poolInv hs
    · exact hs
  · exact hs

theorem storeBridge_poolInv {before s : State} {levels : Quad Level} (hs : PoolInv s) :
    PoolInv (storeBridge before levels s) := by
  unfold storeBridge
  split
  · exact takeAdvance_poolInv (hs.of_other (withSup_frame _ _) (by simp))
  · exact hs

theorem setSourcesAt_poolInv {h : HostId} {v : ListArg} {levels : Quad Level} {s : State} (hs : PoolInv s) :
    PoolInv (setSourcesAt h v levels s).1 :=
  setSourcesAt_keeps hs (fun l => hs.of_other (storeList_frame l s) (by simp)) (fun _ => storeBridge_poolInv)
    (fun x u hu => hu.of_other (selectAtStore_frame s x u) (by simp))
    (fun u x hu => hu.of_other (withSup_frame x u) (by simp))

theorem handOver_poolInv {old : HostId} {torn : Bool} {s : State} (hs : PoolInv s) :
    PoolInv (handOver old torn s) := by
  have next : PoolInv (grantNext s) := hs.of_other (grantNext_frame s) (by simp)
  exact endWaitIf_poolInv next

theorem expireLease_poolInv {s : State} (hs : PoolInv s) : PoolInv (expireLease s) := by
  unfold expireLease
  split
  · split
    · exact handOver_poolInv (hs.of_other (post_frame _ _ _) (by simp))
    · exact hs
  · exact hs

theorem releaseAt_poolInv {h : HostId} {s : State} (hs : PoolInv s) : PoolInv (releaseAt h s).1 := by
  unfold releaseAt
  split
  · exact handOver_poolInv hs
  · exact hs

/-! ### The commands of the pins -/

theorem widthOf_range {w : BitVec 16} {n : Nat} (h : widthOf w = some n) : 1 ≤ n ∧ n ≤ 65535 := by
  have := w.isLt
  unfold widthOf at h
  split at h
  · cases h
    omega
  · cases h

/-- An ARMED timer that names a pin has it bound to its owner (R47, R122). -/
theorem PoolInv.named {s : State} (hs : PoolInv s) {i : Slot} {t : Timer} {u : PinUse} (ht : s.timer i = some t)
    (ha : t.armed.isSome) (hu : t.action = some u) : ∃ r, s.pin u.pin = some r ∧ r.owner = t.owner := by
  obtain ⟨-, -, -, -, -, -, hpin⟩ := hs.timerOk ht
  exact hpin ha u hu

/-- A binding takes a pin that is unbound, or the caller's own (R123). -/
theorem bindPinAt_poolInv {h : HostId} {pin idle : Byte} {width : BitVec 16} {s : State} (hs : PoolInv s)
    (ha : s.attached h = true) : PoolInv (bindPinAt h pin idle width s).1 := by
  unfold bindPinAt
  split
  · next p level w _ _ hw =>
    have bound : (∀ old, s.pin p = some old → old.owner = h) →
        PoolInv (s.setPin p (some ⟨h, level, level, w, none, some ⟨none, .bindPin, s.count.time⟩⟩)) := fun hold => by
      refine setPin_poolInv hs (fun r hr => ?_) fun i t u ht hta hu hp => ⟨_, rfl, ?_⟩
      · cases hr
        exact ⟨ha, widthOf_range hw⟩
      · obtain ⟨r, hr, ho⟩ := hs.named ht hta hu
        exact (hold r (hp ▸ hr)).symm.trans ho
    dsimp only
    split
    · next hnone => exact bound fun old e => by cases hnone.symm.trans e
    · next r hr =>
      split
      · next ho => exact bound fun old e => by cases hr.symm.trans e; exact ho
      · exact hs
  · exact hs

/-- A pin is unbound only when no ARMED timer of its owner names it (R124). -/
theorem unbindPinAt_poolInv {h : HostId} {pin : Byte} {s : State} (hs : PoolInv s) :
    PoolInv (unbindPinAt h pin s).1 := by
  unfold unbindPinAt
  split
  · exact hs
  · next p _ =>
    split
    · exact hs
    · next r hr =>
      split
      · exact hs
      · next ho =>
        split
        · next hnil =>
          refine setPin_poolInv hs (fun r hr => by cases hr) fun i t u ht ha hu hp => ?_
          obtain ⟨r', hr', ho'⟩ := hs.named ht ha hu
          cases hr.symm.trans (hp ▸ hr')
          have hmem : i ∈ (slotsNaming s p).filter fun i => (s.timer i).any fun t => t.owner = h := by
            rw [List.mem_filter, slotsNaming, List.mem_filter]
            refine ⟨⟨List.mem_finRange i, ?_⟩, ?_⟩
            · simp [armedNaming, ht, ha, hu, hp]
            · simpa [ht, ← ho'] using ho
          rw [hnil] at hmem
          cases hmem
        · exact hs

theorem drivePinAt_poolInv {h : HostId} {pin action : Byte} {s : State} (hs : PoolInv s) :
    PoolInv (drivePinAt h pin action s).1 := by
  unfold drivePinAt
  split
  · exact hs
  · split
    · exact hs
    · split
      · exact hs
      · split
        · exact hs
        · exact applyAction_poolInv hs

/-! ### The commands of the pool -/

/-- ALLOC gives a slot only to a host that owns fewer than 32 (R45). -/
theorem allocAt_poolInv {h : HostId} {s : State} (hs : PoolInv s) (ha : s.attached h = true) :
    PoolInv (allocAt h s).1 := by
  unfold allocAt
  split
  · exact hs
  · next hne =>
    split
    · exact hs
    · next i hi =>
      have hfree := lowestFree_eq_some hi
      refine (poolInv_iff _).2 ⟨fun g => ?_, fun j t ht => ?_, fun p r hr => hs.pinOk hr⟩
      · have hall := hs.allotment g
        by_cases hg : (Timer.cleared h).owner = g
        · subst hg
          rw [allocationCount_setTimer_self hfree]
          have hlt : allocationCount s h ≠ 32 := hne
          exact Nat.lt_of_le_of_ne hall hlt
        · rwa [allocationCount_setTimer_of_ne hfree _ hg]
      · rw [State.setTimer_timer] at ht
        split at ht
        · cases ht
          exact ⟨ha, Nat.zero_le _, Nat.zero_le _, Nat.zero_le _, fun _ c => (by cases c), fun c => (by cases c),
            fun c => (by cases c)⟩
        · exact hs.timerOk ht

theorem freeAt_poolInv {h : HostId} {slot : Byte} {s : State} (hs : PoolInv s) : PoolInv (freeAt h slot s).1 := by
  unfold freeAt
  split
  · exact hs
  · exact freeSlot_poolInv (hs.of_other (removeTimerNotice_frame _ _ _) (by simp))

theorem withdrawn_follows (t : Timer) : t.Follows { t with armed := none } :=
  ⟨rfl, rfl, rfl, rfl, rfl, fun c => (by cases c), id, id⟩

theorem cancelAt_poolInv {h : HostId} {slot : Byte} {s : State} (hs : PoolInv s) :
    PoolInv (cancelAt h slot s).1 := by
  unfold cancelAt
  split
  · exact hs
  · next i t e =>
    obtain ⟨ht, -⟩ := ownedTimer_eq_ok e
    split
    · exact setTimer_follows_poolInv hs ht (withdrawn_follows t)
    · split <;> exact hs

/-- The record of an ARM that passed its checks is consistent (R47). -/
theorem armedRecord_timerOk {h : HostId} {v : ArmArg} {x : ArmSettings} {first : Int} {seq skipped : Nat} {s : State}
    (ha : s.attached h = true) (hx : armSettings v = some x) (hset : x.basis = .absolute → s.count.setState ≠ .unset)
    (hpin : pinAllowed h x s = true) : TimerOk s (armedRecord h x first seq skipped) :=
  ⟨ha, armSettings_cls hx, Nat.zero_le _, Nat.min_le_left _ _, fun _ => armSettings_period hx, fun _ => hset,
    fun _ => pinAllowed_iff.1 hpin⟩

theorem armPlaced_poolInv {h : HostId} {v : ArmArg} {i : Slot} {old : Timer} {x : ArmSettings} {first : Int}
    {skipped : Nat} {s : State} (hs : PoolInv s) (ha : s.attached h = true) (hi : s.timer i = some old)
    (ho : old.owner = h) (hx : armSettings v = some x) (hset : x.basis = .absolute → s.count.setState ≠ .unset)
    (hpin : pinAllowed h x s = true) : PoolInv (armPlaced h i old x first skipped s) := by
  have withdrawn : PoolInv (s.setTimer i (some { old with armed := none })) :=
    setTimer_follows_poolInv hs hi (withdrawn_follows old)
  have frame : OnlyChanges [.pool] s (sequenceForSlot i old s).2 :=
    (setTimer_frame _ _ _).trans (takeSequence_frame _)
  obtain ⟨f, hf⟩ := takeSequence_timer (s.setTimer i (some { old with armed := none }))
  have taken : PoolInv (sequenceForSlot i old s).2 :=
    withdrawn.of_pool (takeSequence_frame _) (timers_follow_of_map (reseq_follows f) hf)
  obtain ⟨hcount, -, -, -, -, hpins, -⟩ := id frame
  have hc : (sequenceForSlot i old s).2.count = s.count := hcount (by simp)
  refine setTimer_poolInv taken (armedRecord_timerOk ?_ hx ?_ ?_) ⟨Timer.reseq f { old with armed := none }, ?_, ho⟩
  · rw [frame.attached (by simp), ha]
  · rwa [hc]
  · have hp : ∀ p, (sequenceForSlot i old s).2.pin p = s.pin p := fun p => by
      rw [State.pin, State.pin, hpins (by simp)]
    rw [pinAllowed_iff] at hpin ⊢
    exact fun u hu => (hp u.pin).symm ▸ hpin u hu
  · rw [sequenceForSlot, hf, State.setTimer_timer_self]
    rfl

theorem armAt_poolInv {h : HostId} {v : ArmArg} {s : State} (hs : PoolInv s) (ha : s.attached h = true) :
    PoolInv (armAt h v s).1 := by
  rcases armAt_cases h v s with e | ⟨i, old, x, first, skipped, hi, hx, hset, hpin, e⟩
  · exact e.symm ▸ hs
  · obtain ⟨hold, ho⟩ := ownedTimer_eq_ok hi
    have placed : PoolInv (armPlaced h i old x first skipped s) := armPlaced_poolInv hs ha hold ho hx hset hpin
    rw [e]
    by_cases hf : first ≤ s.count.time
    · rw [armTimer_of_reached _ _ _ _ _ _ _ hf]
      exact expire_poolInv placed
    · rw [armTimer_of_later _ _ _ _ _ _ _ hf]
      exact placed

/-! ### Sessions, teardown and reset -/

theorem attachAt_poolInv {h : HostId} {s : State} (hs : PoolInv s) : PoolInv (attachAt h s).1 := by
  refine hs.of_follows (timers_follow_of_eq rfl) (fun g hg => ?_) id (.of_eq rfl)
  show (s.setPort h _).attached g = true
  rw [State.setPort_attached]
  split
  · rfl
  · exact hg

/-- The records that a teardown of `h` leaves belong to the other hosts, whose sessions stand (R165). -/
theorem teardown_poolInv {h : HostId} {s : State} (hs : PoolInv s) : PoolInv (teardown h s) := by
  obtain ⟨hcount, -⟩ := teardown_frame h s
  have hc : (teardown h s).count = s.count := hcount (by simp)
  have hatt : ∀ g, g ≠ h → (teardown h s).attached g = s.attached g := fun g hg => by
    rw [teardown_attached, if_neg hg]
  have htimer : ∀ i t, (teardown h s).timer i = some t → s.timer i = some t ∧ t.owner ≠ h := fun i t ht => by
    rw [teardown_timer, Option.filter_eq_some_iff] at ht
    exact ht.imp_right fun c => by simpa using c
  refine (poolInv_iff _).2 ⟨fun g => ?_, fun i t ht => ?_, fun p r hr => ?_⟩
  · exact (allocationCount_le fun i t ht ho => ⟨t, (htimer i t ht).1, ho⟩).trans (hs.allotment g)
  · obtain ⟨ht, ho⟩ := htimer i t ht
    obtain ⟨hown, hcls, hfire, hmissed, hperiod, habs, hpin⟩ := hs.timerOk ht
    refine ⟨by rwa [hatt _ ho], hcls, hfire, hmissed, hperiod, by rwa [hc], fun ha u hu => ?_⟩
    obtain ⟨r, hr, hro⟩ := hpin ha u hu
    refine ⟨r, ?_, hro⟩
    rw [teardown_pin, hr, Option.filter_some, if_pos (by simpa [hro] using ho)]
  · rw [teardown_pin, Option.filter_eq_some_iff] at hr
    obtain ⟨hr, ho⟩ := hr
    obtain ⟨hown, hwidth⟩ := hs.pinOk hr
    exact ⟨by rwa [hatt _ (by simpa using ho)], hwidth⟩

/-! ### Every step -/

theorem requestsKeep_poolInv : RequestsKeep PoolInv := by
  intro h levels r s _ hopen _ hs
  have attached : openToDetached r = false → s.attached h = true := fun hc => by simpa [hc] using hopen
  cases r with
  | attach => exact attachAt_poolInv hs
  | detach => exact teardown_poolInv hs
  | status => exact hs
  | echo data => exact hs
  | sessions => exact hs
  | readTime => exact hs
  | timeStatus => exact hs
  | setTime v => exact setTimeAt_poolInv hs
  | step v => exact stepAt_poolInv hs
  | slew v => exact slewAt_poolInv hs
  | setTrim source trim => exact hs.of_other (setTrimAt_frame source trim s) (by simp)
  | setSources v => exact setSourcesAt_poolInv hs
  | sourceStatus => exact hs
  | claim lease => exact hs.of_other (claimAt_frame _ _ _) (by simp)
  | release => exact releaseAt_poolInv hs
  | withdraw => exact hs.of_other (withdrawAt_frame _ _) (by simp)
  | authStatus => exact hs
  | alloc => exact allocAt_poolInv hs (attached rfl)
  | free slot => exact freeAt_poolInv hs
  | arm v => exact armAt_poolInv hs (attached rfl)
  | cancel slot => exact cancelAt_poolInv hs
  | timerStatus slot => exact (timerStatusAt_state h slot s).symm ▸ hs
  | take => exact hs.of_other (takeAt_frame _ _) (by simp)
  | ack => exact hs.of_other (ackAt_frame _ _) (by simp)
  | peek => exact hs.of_other (peekAt_frame _ _) (by simp)
  | setThreshold v => exact hs.of_other (setThresholdAt_frame _ _ _) (by simp)
  | bindPin pin idle width => exact bindPinAt_poolInv hs (attached rfl)
  | unbindPin pin => exact unbindPinAt_poolInv hs
  | drivePin pin action => exact drivePinAt_poolInv hs
  | pinStatus pin => exact (pinStatusAt_state pin s).symm ▸ hs
  | setEdges input selection => exact hs.of_other (setEdgesAt_frame _ _ _) (by simp)
  | subscribe input cls => exact hs.of_other (subscribeAt_frame _ _ _ _) (by simp)
  | unsubscribe input => exact hs.of_other (unsubscribeAt_frame _ _ _) (by simp)
  | readCapture which => exact hs.of_other (readCaptureAt_frame _ _ _) (by simp)

theorem operationsKeep_poolInv : OperationsKeep PoolInv where
  sessions s h x hx hs := hs.of_frame (setPort_frame h x s) (by simp) fun g => by
    rw [State.setPort_attached]
    split
    · next e => rw [hx, e]; rfl
    · rfl
  pending _ _ hs := hs
  power s x hs := hs.of_other (withPower_frame x s) (by simp)
  retained _ _ hs := hs
  requests := requestsKeep_poolInv
  advance levels s hs := takeAdvance_poolInv (s := slewApplied s)
    (hs.of_follows (timers_follow_of_eq rfl) (fun _ => id) id (.of_eq rfl))
  expireHead _ hs := expireReached_poolInv hs
  endPulse _ _ hs := endPulse_poolInv hs
  takeCapture s hs := hs.of_other (takeCapture_frame s) (by simp)
  expireLease _ hs := expireLease_poolInv hs
  superviseCycle s hs := hs.of_other (superviseCycle_frame s) (by simp)
  setWatched _ _ _ hs := setWatched_poolInv hs
  loseSource _ _ _ hs := loseSource_poolInv hs
  qualify _ _ hs := qualify_poolInv hs
  endHoldOff w s hs := hs.of_other (endHoldOff_frame w s) (by simp)
  timeOutWait _ hs := timeOutWait_poolInv hs
  teardown _ _ hs := teardown_poolInv hs
  mainDomainCleared s _ := .of_empty (mainDomainCleared_timer s) (mainDomainCleared_pin s)
  mainReset s _ := .of_empty (mainDomainCleared_timer s) (mainDomainCleared_pin s)

end Sys2Proof.Machine

namespace Sys2Proof.Proofs

open Sys2Proof.Machine

/-- Settles O7: every operation takes the records to later conditions, writes a consistent record, or frees what a host
owns together with its session. -/
theorem stepKeepsPool : Obligations.StepKeepsPool := by
  unfold Obligations.StepKeepsPool
  exact fun _ _ hs h => operationsKeep_poolInv.step hs h

end Sys2Proof.Proofs
end

section
/-! DETACH (R160): the teardown of the caller, and what it released. -/

namespace Sys2Proof.Machine

/-- A teardown seen through the request that asks for it: the request leaves all but the port of its host, and the held
answer is of that port too. -/
theorem TornDown.of_request {h : HostId} {op q : Byte} {r : Request} {x : Reply} {s t : State}
    (ht : TornDown h (requestTaken h q r s) t) : TornDown h s (holdAnswer h op q x t) := by
  obtain ⟨hatt, hport, hbox, htimer, hseq, hpin, hinput, hlog, hserial, hseen, hsup, hother, hheld, hcount, hret,
    hpower, hpending⟩ := ht
  refine ⟨by rw [holdAnswer_attached, hatt], fun g hg => ?_, hbox, htimer, hseq, hpin, hinput, hlog, hserial, hseen,
    hsup, hother, fun hh => ?_, hcount, hret, hpower, hpending⟩
  · rw [holdAnswer_port, if_neg hg, hport g hg, requestTaken_port, if_neg hg]
  · obtain ⟨hnil, hcons⟩ := hheld hh
    refine ⟨hnil, fun w rest e => ?_⟩
    obtain ⟨hauth, hothers⟩ := hcons w rest e
    refine ⟨hauth, fun g hg => ?_⟩
    rw [holdAnswer_box, hothers g hg, requestTaken_attached]
    rfl

/-- The entries of four like things counted by their numbers. -/
theorem countByte_toList {α : Type} (p : α → Bool) (v : Quad α) :
    countByte p v.toList = byteOf (quadIndices.filter fun i => p (v.get i)).length := by
  have e : v.toList = quadIndices.map v.get := rfl
  rw [countByte, e, List.filter_map, List.length_map]
  rfl

theorem position_isSome (s : State) (h : HostId) :
    (position s h).isSome = s.auth.waiting.any fun w => w.host = h := by
  rw [position, Option.isSome_map, List.findIdx?_isSome]

/-- What DETACH reports, counted before the teardown to `t` (R160). -/
def detachReport (h : HostId) (s t : State) : List Byte :=
  byteOf (allocationCount s h) ++
    byteOf (quadIndices.filter fun p => (s.pin p).any fun r => r.owner = h).length ++
    byteOf (quadIndices.filter fun i => ((s.input i).subscribers.get h).isSome).length ++
    [flagCode (holder s = some h), if holder s = some h then hostCode (holder t) else 0,
      flagCode (s.auth.waiting.any fun w => w.host = h)]

theorem detachAt_eq (h : HostId) (s : State) :
    detachAt h s = (teardown h s, .okWith (detachReport h s (teardown h s))) := by
  have held : (if decide (holder s = some h) = true then hostCode (holder (teardown h s)) else 0) =
      if holder s = some h then hostCode (holder (teardown h s)) else 0 := by
    simp only [decide_eq_true_iff]
  rw [detachAt, detachReport, countByte_toList, countByte_toList, position_isSome]
  simp only [held]
  rfl

end Sys2Proof.Machine

namespace Sys2Proof.Proofs

open Sys2Proof.Machine

/-- Settles O19: the request carries out the teardown, whose parts are those of `teardown_tornDown`. -/
theorem detachTearsDown : Obligations.DetachTearsDown := by
  unfold Obligations.DetachTearsDown
  rintro h q s ⟨hr, ha⟩
  have hc : carryOut h noLevels .detach (requestTaken h q .detach s) =
      (teardown h (requestTaken h q .detach s),
        some (.okWith (detachReport h s (teardown h (requestTaken h q .detach s))))) := by
    rw [carryOut, detachAt_eq]
    rfl
  have row := requestRow_answered (levels := noLevels) hr rfl (.inl ha) (fun c => by cases c) hc
  have port : ((teardown h (requestTaken h q .detach s)).port h) =
      { (requestTaken h q .detach s).port h with attached := false } := by
    rw [teardown_port, if_pos rfl]
  obtain ⟨hrefused, hrunt⟩ := requestTaken_flags h q .detach s
  refine ⟨_, congrArg Host.Outcome.next row, (teardown_tornDown h _).of_request, ?_,
    answers_holdAnswer (by rw [port]; exact hrefused) (by rw [port]; exact hrunt)⟩
  rw [holdAnswer_port, if_pos rfl, port, requestTaken_port, if_pos rfl]

end Sys2Proof.Proofs
end

section
/-! ALLOC, CANCEL and FREE, and the refusals of the commands that name a slot (R44, R45, R47, R54, R56). -/

namespace Sys2Proof.Machine

/-! ### ALLOC (R45) -/

theorem lowestFree_of_none_free {s : State} (h : freeCount s = 0) : lowestFree s = none := by
  rw [lowestFree, List.find?_eq_none]
  exact List.filter_eq_nil_iff.1 (List.length_eq_zero_iff.1 h)

theorem lowestFree_of_lowest {s : State} {i : Slot} (hi : s.timer i = none) (hlow : ∀ j, j < i → s.timer j ≠ none) :
    lowestFree s = some i := by
  rw [lowestFree, List.find?_eq_some_iff_getElem]
  refine ⟨by simp [hi], i.val, by simp [allSlots], by simp [allSlots], fun j hj => ?_⟩
  have hlt : (⟨j, hj.trans i.isLt⟩ : Slot) < i := hj
  simpa [allSlots, Option.isSome_iff_ne_none] using hlow _ hlt

theorem allocAt_refused {h : HostId} {s : State} (hfull : allocationCount s h = 32 ∨ freeCount s = 0) :
    allocAt h s = (s, ⟨.noSlot, countBytes h s⟩) := by
  by_cases hc : allocationCount s h = timersPerHost
  · rw [allocAt, if_pos hc]
  · have hfree : freeCount s = 0 := hfull.resolve_left hc
    rw [allocAt, if_neg hc, lowestFree_of_none_free hfree]

theorem allocAt_granted {h : HostId} {s : State} {i : Slot} (hc : allocationCount s h ≠ 32) (hi : s.timer i = none)
    (hlow : ∀ j, j < i → s.timer j ≠ none) :
    allocAt h s = (s.setTimer i (some (.cleared h)),
      .okWith (byteOf i.val ++ countBytes h (s.setTimer i (some (.cleared h))))) := by
  have hc' : ¬allocationCount s h = timersPerHost := hc
  rw [allocAt, if_neg hc', lowestFree_of_lowest hi hlow]

/-- The counts reported after a grant (R41, R45). -/
theorem countBytes_granted {h : HostId} {s : State} {i : Slot} (hi : s.timer i = none) :
    countBytes h (s.setTimer i (some (.cleared h))) =
      byteOf (allocationCount s h + 1) ++ byteOf (freeCount s - 1) := by
  have hown : allocationCount (s.setTimer i (some (.cleared h))) h = allocationCount s h + 1 :=
    allocationCount_setTimer_self hi (.cleared h)
  rw [countBytes, hown, freeCount_setTimer hi (.cleared h), Nat.add_sub_cancel]

end Sys2Proof.Machine

namespace Sys2Proof.Proofs

open Sys2Proof.Machine

/-- Settles O29: the search finds the lowest FREE slot, and one slot changes hands. -/
theorem allocGivesLowestFreeSlot : Obligations.AllocGivesLowestFreeSlot := by
  unfold Obligations.AllocGivesLowestFreeSlot
  rintro h q s ⟨hr, ha⟩
  refine ⟨fun hfull => ?_, fun i hc hi hlow => ?_⟩
  · refine request_unchanged (r := .alloc) hr rfl (.inl ha) (fun c => by cases c) ?_
    rw [carryOut, allocAt_refused (by simpa using hfull)]
    rfl
  · have hcarry : carryOut h noLevels .alloc (requestTaken h q .alloc s) =
        ((requestTaken h q .alloc s).setTimer i (some (.cleared h)),
          some ⟨.ok, byteOf i.val ++ byteOf (allocationCount s h + 1) ++ byteOf (freeCount s - 1)⟩) := by
      rw [carryOut, allocAt_granted (by simpa using hc) (by simpa using hi) (by simpa using hlow),
        countBytes_granted (by simpa using hi), List.append_assoc]
      rfl
    obtain ⟨e, hf, hx⟩ := request_held hr rfl (.inl ha) (fun c => by cases c) hcarry (setTimer_frame _ _ _) rfl
    refine ⟨_, e, hf, ?_, fun j hj => ?_, rfl, ?_, ?_, hx⟩
    · rw [holdAnswer_timer, State.setTimer_timer_self]
      rfl
    · rw [holdAnswer_timer, State.setTimer_timer, if_neg hj, requestTaken_timer]
    · exact allocationCount_setTimer_self (s := requestTaken h q .alloc s) hi (.cleared h)
    · exact (freeCount_setTimer (s := requestTaken h q .alloc s) hi (.cleared h)).symm

end Sys2Proof.Proofs

namespace Sys2Proof.Machine

/-! ### CANCEL and FREE (R54, R56) -/

section OwnSlot

variable {h : HostId} {slot : Byte} {i : Slot} {x : Timer} {s : State} (ho : ownedTimer h slot s = .ok (i, x))

include ho

theorem cancelAt_of_armed (ha : x.armed ≠ none) :
    cancelAt h slot s = (s.setTimer i (some { x with armed := none }), .okWith (runBytes x)) := by
  unfold cancelAt
  simp only [ho, if_pos (Option.isSome_iff_ne_none.2 ha)]

theorem cancelAt_of_idle (ha : x.armed = none) :
    cancelAt h slot s = (s, ⟨if 0 < x.fire then .fired else .state, runBytes x⟩) := by
  unfold cancelAt
  simp only [ho, ha, Option.isSome_none, Bool.false_eq_true, if_false]
  split <;> rfl

theorem freeAt_of_owner : freeAt h slot s = ((removeTimerNotice h i s).setTimer i none,
    .okWith (bytesOf 2 x.fire ++ [flagCode ((s.box h).queue.any (isTimerNotice i))])) := by
  unfold freeAt
  simp only [ho]

end OwnSlot

theorem isTimerNotice_eq (i : Slot) :
    isTimerNotice i = fun n => n.kind = .timer && n.origin = some (.slot i) := by
  funext n
  rw [isTimerNotice, Bool.decide_and]

end Sys2Proof.Machine

namespace Sys2Proof.Proofs

open Sys2Proof.Machine

/-- Settles O30: both commands work on the caller's record, and FREE also on the caller's queue. -/
theorem cancelAndFree : Obligations.CancelAndFree := by
  unfold Obligations.CancelAndFree
  intro h q slot i x s hslot hx ho
  have owned : ∀ r, ownedTimer h slot (requestTaken h q r s) = .ok (i, x) := fun r => ownedTimer_of_owner hslot hx ho
  refine ⟨fun ⟨hr, ha⟩ => ⟨fun harmed => ?_, fun hidle => ?_⟩, fun ⟨hr, ha⟩ => ?_⟩
  · have hc : carryOut h noLevels (.cancel slot) (requestTaken h q (.cancel slot) s) =
        ((requestTaken h q (.cancel slot) s).setTimer i (some { x with armed := none }), some ⟨.ok, runBytes x⟩) := by
      rw [carryOut, cancelAt_of_armed (owned _) harmed]
      rfl
    obtain ⟨e, hf, hans⟩ := request_held hr rfl (.inl ha) (fun c => by cases c) hc (setTimer_frame _ _ _) rfl
    refine ⟨_, e, hf, ?_, fun j hj => ?_, rfl, hans⟩
    · rw [holdAnswer_timer, State.setTimer_timer_self]
    · rw [holdAnswer_timer, State.setTimer_timer, if_neg hj, requestTaken_timer]
  · refine request_unchanged (r := .cancel slot) hr rfl (.inl ha) (fun c => by cases c) ?_
    rw [carryOut, cancelAt_of_idle (owned _) hidle]
    rfl
  · have hc : carryOut h noLevels (.free slot) (requestTaken h q (.free slot) s) =
        ((removeTimerNotice h i (requestTaken h q (.free slot) s)).setTimer i none,
          some ⟨.ok, bytesOf 2 x.fire ++
            [flagCode ((s.box h).queue.any fun n => n.kind = .timer && n.origin = some (.slot i))]⟩) := by
      rw [carryOut, freeAt_of_owner (owned _), isTimerNotice_eq]
      rfl
    have hframe : OnlyChanges [.pool, .notices] (requestTaken h q (.free slot) s)
        ((removeTimerNotice h i (requestTaken h q (.free slot) s)).setTimer i none) :=
      ((removeTimerNotice_frame _ _ _).mono (by simp)).trans ((setTimer_frame _ _ _).mono (by simp))
    obtain ⟨e, hf, hans⟩ := request_held hr rfl (.inl ha) (fun c => by cases c) hc hframe rfl
    refine ⟨_, e, hf, ?_, fun j hj => ?_, rfl, fun g => ?_, hans⟩
    · rw [holdAnswer_timer, State.setTimer_timer_self]
    · rw [holdAnswer_timer, State.setTimer_timer, if_neg hj]
      rfl
    · rw [holdAnswer_box, State.setTimer_box, removeTimerNotice, State.setBox_box, isTimerNotice_eq]
      rfl

end Sys2Proof.Proofs

namespace Sys2Proof.Machine

/-! ### Refusals (R44, R47) -/

/-- A request of an attached host, open to hosts without the authority, that its block refuses with `x` (R156). -/
theorem attached_refused {h : HostId} {q : Byte} {r : Request} {s : State} {x : Result}
    (ht : Takes h (opcodeOf r) q s) (hw : r.wellFormed = true) (hn : authorityOnly r = false)
    (hc : carryOut h noLevels r (requestTaken h q r s) = (requestTaken h q r s, some (.bare x))) :
    ∃ t, (Host.Outcome.next (requestRow h q r noLevels s) : Host.Outcome State Fault Refusal) = .next t ∧
      Answers h (opcodeOf r) q x [] t ∧ RequestFrame h [] s t := by
  obtain ⟨hr, ha⟩ := ht
  obtain ⟨t, e, hf, hx⟩ := request_unchanged hr hw (.inl ha) (fun c => by simp [hn] at c) hc
  exact ⟨t, e, hx, hf⟩

/-- The slot that a request names (R44). -/
def slotNamed : Request → Option Byte
  | .arm v => some v.slot
  | .cancel slot => some slot
  | .free slot => some slot
  | .timerStatus slot => some slot
  | _ => none

/-- A request that names a slot is answered by the checks on that slot when they fail (R44). -/
theorem carryOut_of_slot_error {h : HostId} {levels : Quad Level} {r : Request} {slot : Byte} {s : State} {x : Reply}
    (hs : slotNamed r = some slot) (e : ownedTimer h slot s = .error x) : carryOut h levels r s = (s, some x) := by
  cases r with
  | arm v => cases hs; simp [carryOut, atOnce, armAt, e]
  | cancel b => cases hs; simp [carryOut, atOnce, cancelAt, e]
  | free b => cases hs; simp [carryOut, atOnce, freeAt, e]
  | timerStatus b => cases hs; simp [carryOut, atOnce, timerStatusAt, e]
  | _ => cases hs

/-- No request that names a slot asks for the authority or is ill-formed. -/
theorem slotNamed_open {r : Request} {slot : Byte} (hs : slotNamed r = some slot) :
    r.wellFormed = true ∧ authorityOnly r = false := by
  cases r with
  | arm v => exact ⟨rfl, rfl⟩
  | cancel b => exact ⟨rfl, rfl⟩
  | free b => exact ⟨rfl, rfl⟩
  | timerStatus b => exact ⟨rfl, rfl⟩
  | _ => cases hs

/-- The refusals common to the requests that name a slot (R44). -/
theorem slot_refused {h : HostId} {q slot : Byte} {r : Request} {s : State} {x : Result}
    (ht : Takes h (opcodeOf r) q s) (hs : slotNamed r = some slot)
    (e : ownedTimer h slot (requestTaken h q r s) = .error (.bare x)) :
    ∃ t, (Host.Outcome.next (requestRow h q r noLevels s) : Host.Outcome State Fault Refusal) = .next t ∧
      Answers h (opcodeOf r) q x [] t ∧ RequestFrame h [] s t := by
  obtain ⟨hw, hn⟩ := slotNamed_open hs
  exact attached_refused ht hw hn (carryOut_of_slot_error hs e)

/-- A slot above 47, and a slot that is FREE or another host's (R44). -/
theorem slot_refusals {h : HostId} {q slot : Byte} {r : Request} {s : State} (hs : slotNamed r = some slot)
    (ht : Takes h (opcodeOf r) q s) :
    (48 ≤ slot.toNat →
      ∃ t, (Host.Outcome.next (requestRow h q r noLevels s) : Host.Outcome State Fault Refusal) = .next t ∧
        Answers h (opcodeOf r) q .range [] t ∧ RequestFrame h [] s t) ∧
    ∀ i : Slot, slot.toNat = i.val → (∀ x, s.timer i = some x → x.owner ≠ h) →
      ∃ t, (Host.Outcome.next (requestRow h q r noLevels s) : Host.Outcome State Fault Refusal) = .next t ∧
        Answers h (opcodeOf r) q .notOwner [] t ∧ RequestFrame h [] s t :=
  ⟨fun hr => slot_refused ht hs (ownedTimer_out_of_range hr),
    fun _ hi ho => slot_refused ht hs (ownedTimer_not_owner hi ho)⟩

/-! #### The fields of an ARM (R47 steps 2 to 5) -/

theorem toNat_le_one_iff (b : Byte) : b.toNat ≤ 1 ↔ b = 0 ∨ b = 1 := by
  rw [← BitVec.toNat_inj, ← BitVec.toNat_inj]
  show b.toNat ≤ 1 ↔ b.toNat = 0 ∨ b.toNat = 1
  omega

theorem basisOf_eq_absolute {b : Byte} : basisOf b = some .absolute ↔ b = 0 := by
  unfold basisOf
  split
  · next e => simp [e]
  · next e => split <;> simpa using e

theorem basisOf_eq_elapsed {b : Byte} : basisOf b = some .elapsed ↔ b = 1 := by
  unfold basisOf
  split
  · next e => simp [e]
  · split
    · next e => simp [e]
    · next e => simpa using e

/-- A basis is named by 0 or 1. -/
theorem basisOf_isSome (b : Byte) : (∃ x, basisOf b = some x) ↔ b.toNat ≤ 1 := by
  rw [toNat_le_one_iff, ← basisOf_eq_absolute, ← basisOf_eq_elapsed]
  constructor
  · rintro ⟨x, hx⟩
    cases x with
    | absolute => exact .inl hx
    | elapsed => exact .inr hx
  · rintro (h | h)
    · exact ⟨_, h⟩
    · exact ⟨_, h⟩

theorem yesNoOf_isSome (b : Byte) : (∃ x, yesNoOf b = some x) ↔ b.toNat ≤ 1 := by
  rw [toNat_le_one_iff]
  unfold yesNoOf
  split
  · next e => simp [e]
  · split
    · next e => simp [e]
    · next e0 e1 => simpa using ⟨e0, e1⟩

theorem classOf_isSome (b : Byte) : (∃ x, classOf b = some x) ↔ b.toNat ≤ 3 := by
  unfold classOf
  split
  · next e => simp [e]
  · next e => simp [e]

/-- A PERIODIC kind with its period in range (R42). -/
theorem timerKindOf_periodic {period : BitVec 64} (hlo : 10000 ≤ period.toInt)
    (hhi : period.toInt ≤ 1000000000000000) : timerKindOf 1 period = some (.periodic period.toNat) := by
  have htoNat : period.toInt.toNat = period.toNat := by
    rw [BitVec.toInt_eq_toNat_cond] at hlo ⊢
    split at hlo <;> omega
  have hrange : (periodMin : Int) ≤ period.toInt ∧ period.toInt ≤ (durationMax : Int) := ⟨hlo, hhi⟩
  unfold timerKindOf
  rw [if_neg (by decide), if_pos rfl, if_pos hrange, htoNat]

theorem timerKindOf_isSome (kind : Byte) (period : BitVec 64) : (∃ x, timerKindOf kind period = some x) ↔
    kind.toNat ≤ 1 ∧ (kind = 1 → 10000 ≤ period.toInt ∧ period.toInt ≤ 1000000000000000) := by
  rw [toNat_le_one_iff]
  constructor
  · rintro ⟨x, hx⟩
    unfold timerKindOf at hx
    split at hx
    · next e => simp [e]
    · split at hx
      · next e =>
        split at hx
        · next hrange => exact ⟨.inr e, fun _ => hrange⟩
        · cases hx
      · cases hx
  · rintro ⟨h0 | h1, hrange⟩
    · exact ⟨.once, by rw [timerKindOf, if_pos h0]⟩
    · obtain ⟨hlo, hhi⟩ := hrange h1
      exact ⟨_, h1 ▸ timerKindOf_periodic hlo hhi⟩

/-- An ABSOLUTE deadline as the time value of its two fields (R179, R180). -/
theorem whenOf_absolute {w : BitVec 72} (hn : w.toNat % 4294967296 ≤ 999999999) :
    whenOf .absolute w = some (w.toNat / 4294967296 * 1000000000 + w.toNat % 4294967296) := by
  have := w.isLt
  have hrange : w.toNat / 2 ^ 32 < secondsLimit ∧ w.toNat % 2 ^ 32 < nsPerSecond := by
    simp only [secondsLimit, nsPerSecond]
    omega
  exact if_pos hrange

theorem whenOf_isSome (basis : Basis) (w : BitVec 72) : (∃ x, whenOf basis w = some x) ↔
    (basis = .absolute → w.toNat % 4294967296 ≤ 999999999) ∧ (basis = .elapsed → w.toNat ≤ 1000000000000000) := by
  cases basis with
  | absolute =>
    refine ⟨fun ⟨x, hx⟩ => ⟨fun _ => ?_, fun c => (by cases c)⟩, fun ⟨hn, _⟩ => ⟨_, whenOf_absolute (hn rfl)⟩⟩
    obtain ⟨hrange, -⟩ := Option.ite_none_right_eq_some.1 hx
    simp only [secondsLimit, nsPerSecond] at hrange
    omega
  | elapsed =>
    refine ⟨fun ⟨x, hx⟩ => ⟨fun c => (by cases c), fun _ => ?_⟩, fun ⟨_, hn⟩ => ⟨_, if_pos (hn rfl)⟩⟩
    exact (Option.ite_none_right_eq_some.1 hx).1

theorem pinOf_eq_some {b : Byte} {p : PinId} : pinOf b = some p ↔ b.toNat = p.val := by
  unfold pinOf
  split
  · rw [Option.some.injEq, Fin.ext_iff]
  · have := p.isLt
    constructor
    · intro c
      cases c
    · omega

theorem actionOf_isSome (b : Byte) : (∃ x, actionOf b = some x) ↔ 1 ≤ b.toNat ∧ b.toNat ≤ 4 := by
  have named : (1 ≤ b.toNat ∧ b.toNat ≤ 4) ↔ b = 1 ∨ b = 2 ∨ b = 3 ∨ b = 4 := by
    simp only [← BitVec.toNat_inj]
    show _ ↔ b.toNat = 1 ∨ b.toNat = 2 ∨ b.toNat = 3 ∨ b.toNat = 4
    omega
  rw [named]
  unfold actionOf
  split
  · next e => simp [e]
  · split
    · next e => simp [e]
    · split
      · next e => simp [e]
      · split
        · next e => simp [e]
        · next e1 e2 e3 e4 => simpa using ⟨e1, e2, e3, e4⟩

/-- The pin action of the settings is that of the payload, its pin the pin that the payload numbers. -/
theorem pinUseOf_eq_some {f : Option (Byte × Byte)} {y : Option PinUse} (h : pinUseOf f = some y) :
    (f = none ∧ y = none) ∨
      ∃ p a u, f = some (p, a) ∧ y = some u ∧ p.toNat = u.pin.val ∧ actionOf a = some u.action := by
  cases f with
  | none =>
    cases h
    exact .inl ⟨rfl, rfl⟩
  | some f =>
    obtain ⟨p, a⟩ := f
    unfold pinUseOf at h
    split at h
    · next e => cases e
    · next e =>
      cases e
      split at h
      · next hp ha =>
        cases h
        exact .inr ⟨p, a, _, rfl, rfl, pinOf_eq_some.1 hp, ha⟩
      · cases h

theorem pinUseOf_isSome (f : Option (Byte × Byte)) : (∃ y, pinUseOf f = some y) ↔
    ∀ p a, f = some (p, a) → p.toNat ≤ 3 ∧ 1 ≤ a.toNat ∧ a.toNat ≤ 4 := by
  constructor
  · rintro ⟨y, hy⟩ p a rfl
    rcases pinUseOf_eq_some hy with ⟨c, -⟩ | ⟨p', a', u, e, -, hp, ha⟩
    · cases c
    · cases e
      have := u.pin.isLt
      exact ⟨by omega, (actionOf_isSome a).1 ⟨_, ha⟩⟩
  · intro h
    cases f with
    | none => exact ⟨none, rfl⟩
    | some f =>
      obtain ⟨p, a⟩ := f
      obtain ⟨hp, hrange⟩ := h p a rfl
      obtain ⟨x, ha⟩ := (actionOf_isSome a).2 hrange
      have hpin : pinOf p = some ⟨p.toNat, by omega⟩ := pinOf_eq_some.2 rfl
      exact ⟨some ⟨⟨p.toNat, by omega⟩, x⟩, by simp only [pinUseOf, hpin, ha]⟩

/-- The fields that steps 2 to 5 accept are those that have a meaning (R47). -/
theorem armSettings_isSome (v : ArmArg) : (∃ x, armSettings v = some x) ↔ ArmFieldsOk v := by
  have basis_eq : ∀ {x : Basis}, basisOf v.basis = some x →
      (x = .absolute ↔ v.basis = 0) ∧ (x = .elapsed ↔ v.basis = 1) :=
    fun {x} hx => by
      rw [← basisOf_eq_absolute, ← basisOf_eq_elapsed, hx, Option.some.injEq, Option.some.injEq]
      exact ⟨Iff.rfl, Iff.rfl⟩
  constructor
  · rintro ⟨x, hx⟩
    obtain ⟨hk, hb, hw, hc, hn, ha, -⟩ := armSettings_eq_some.1 hx
    obtain ⟨hkind, hperiod⟩ := (timerKindOf_isSome _ _).1 ⟨_, hk⟩
    obtain ⟨habs, hel⟩ := (whenOf_isSome _ _).1 ⟨_, hw⟩
    obtain ⟨h0, h1⟩ := basis_eq hb
    exact ⟨hkind, (basisOf_isSome _).1 ⟨_, hb⟩, (classOf_isSome _).1 ⟨_, hc⟩, (yesNoOf_isSome _).1 ⟨_, hn⟩, hperiod,
      fun e => habs (h0.2 e), fun e => hel (h1.2 e), (pinUseOf_isSome _).1 ⟨_, ha⟩⟩
  · rintro ⟨hkind, hbasis, hcls, hnotify, hperiod, habs, hel, hpin⟩
    obtain ⟨kind, hk⟩ := (timerKindOf_isSome _ _).2 ⟨hkind, hperiod⟩
    obtain ⟨basis, hb⟩ := (basisOf_isSome _).2 hbasis
    obtain ⟨h0, h1⟩ := basis_eq hb
    obtain ⟨w, hw⟩ := (whenOf_isSome basis v.when).2 ⟨fun e => habs (h0.1 e), fun e => hel (h1.1 e)⟩
    obtain ⟨cls, hc⟩ := (classOf_isSome _).2 hcls
    obtain ⟨notify, hn⟩ := (yesNoOf_isSome _).2 hnotify
    obtain ⟨action, ha⟩ := (pinUseOf_isSome _).2 hpin
    exact ⟨⟨kind, basis, w, cls, notify, action, v.tag⟩, armSettings_eq_some.2 ⟨hk, hb, hw, hc, hn, ha, rfl⟩⟩

theorem armSettings_absolute {v : ArmArg} {x : ArmSettings} (hx : armSettings v = some x) :
    x.basis = .absolute ↔ v.basis = 0 := by
  obtain ⟨-, hb, -⟩ := armSettings_eq_some.1 hx
  rw [← basisOf_eq_absolute, hb, Option.some.injEq]

/-! #### The checks of an ARM, in order (R47) -/

section ArmRefused

variable {h : HostId} {v : ArmArg} {i : Slot} {old : Timer} {x : ArmSettings} {s : State}
  (ho : ownedTimer h v.slot s = .ok (i, old))

include ho

theorem armAt_of_no_settings (hx : armSettings v = none) : armAt h v s = (s, .bare .range) := by
  simp only [armAt, ho, hx]

theorem armAt_of_unset (hx : armSettings v = some x) (hb : x.basis = .absolute) (hu : s.count.setState = .unset) :
    armAt h v s = (s, .bare .notSet) := by
  simp [armAt, ho, hx, hb, hu]

variable (hset : x.basis = .absolute → s.count.setState ≠ .unset)

include hset

theorem armAt_of_pin_taken (hx : armSettings v = some x) (hp : pinAllowed h x s = false) :
    armAt h v s = (s, .bare .pinTaken) := by
  have hset' : ¬(x.basis = .absolute ∧ s.count.setState = .unset) := fun ⟨hb, hu⟩ => hset hb hu
  simp [armAt, ho, hx, hset', hp]

theorem armAt_of_no_deadline (hx : armSettings v = some x) (hp : pinAllowed h x s = true)
    (hd : firstDeadline x s.count.time = none) : armAt h v s = (s, .bare .range) := by
  have hset' : ¬(x.basis = .absolute ∧ s.count.setState = .unset) := fun ⟨hb, hu⟩ => hset hb hu
  simp [armAt, ho, hx, hset', hp, hd]

end ArmRefused

/-- An ABSOLUTE PERIODIC deadline that would lie beyond the greatest time value (R47 step 8, R51). -/
theorem firstDeadline_beyond {x : ArmSettings} {now period : Nat} (hb : x.basis = .absolute)
    (hk : x.kind = .periodic period) (hp : 1 ≤ period)
    (hbeyond : ∀ k, now < x.when + k * period → 1099511627776000000000 ≤ x.when + k * period) :
    firstDeadline x now = none := by
  obtain ⟨first, k, e⟩ : ∃ first k, catchUp x.when period now = (first, k) := ⟨_, _, rfl⟩
  obtain ⟨hfirst, hlater, -, -⟩ := catchUp_spec hp e
  have hle : 1099511627776000000000 ≤ x.when + k * period := hbeyond k (by omega)
  have hout : ¬first ≤ (maxTime : Nat) := by
    simp only [maxTime, secondsLimit, nsPerSecond]
    omega
  unfold firstDeadline
  simp only [hb, hk, e, if_neg hout]

/-- An ARM of the caller's own slot that is refused with `x` (R47). -/
theorem arm_refused {h : HostId} {q : Byte} {v : ArmArg} {s : State} {x : Result} (ht : Takes h 0x42 q s)
    (e : armAt h v (requestTaken h q (.arm v) s) = (requestTaken h q (.arm v) s, .bare x)) :
    ∃ t, exec (.arm h q v) s = .next t ∧ Answers h 0x42 q x [] t ∧ RequestFrame h [] s t :=
  attached_refused (r := .arm v) ht rfl rfl (by rw [carryOut, e]; rfl)

end Sys2Proof.Machine

namespace Sys2Proof.Proofs

open Sys2Proof.Machine

/-- Settles O33: the checks common to the slot commands, then those of ARM in their order. -/
theorem slotCommandsRefused : Obligations.SlotCommandsRefused := by
  unfold Obligations.SlotCommandsRefused
  refine fun h q s => ⟨fun c op slot hc ht => ?_, fun v i old ht hi hold ho => ?_⟩
  · rcases hc with ⟨v, rfl, rfl, rfl⟩ | ⟨rfl, rfl⟩ | ⟨rfl, rfl⟩ | ⟨rfl, rfl⟩
    · exact slot_refusals (r := .arm v) rfl ht
    · exact slot_refusals (r := .cancel slot) rfl ht
    · exact slot_refusals (r := .free slot) rfl ht
    · exact slot_refusals (r := .timerStatus slot) rfl ht
  · have owned : ownedTimer h v.slot (requestTaken h q (.arm v) s) = .ok (i, old) := ownedTimer_of_owner hi hold ho
    refine ⟨fun hbad => ?_, fun hok hb hu => ?_, fun hok hset hpin hsome => ?_, fun hok hb hk hset hpin hlate => ?_⟩
    · refine arm_refused ht (armAt_of_no_settings owned ?_)
      rw [Option.eq_none_iff_forall_ne_some]
      exact fun x hx => hbad ((armSettings_isSome v).1 ⟨x, hx⟩)
    · obtain ⟨x, hx⟩ := (armSettings_isSome v).2 hok
      exact arm_refused ht (armAt_of_unset owned hx ((armSettings_absolute hx).2 hb) hu)
    · obtain ⟨x, hx⟩ := (armSettings_isSome v).2 hok
      obtain ⟨-, -, -, -, -, ha, -⟩ := armSettings_eq_some.1 hx
      refine arm_refused ht (armAt_of_pin_taken owned (fun hb => hset ((armSettings_absolute hx).1 hb)) hx ?_)
      rw [← Bool.not_eq_true, pinAllowed_iff]
      intro hall
      rcases pinUseOf_eq_some ha with ⟨hnone, -⟩ | ⟨p, a, u, hf, hu, hp, -⟩
      · exact hsome hnone
      · obtain ⟨r, hr, hro⟩ := hall u hu
        exact hpin p a hf u.pin hp r hr hro
    · obtain ⟨-, hbeyond⟩ := hlate
      obtain ⟨x, hx⟩ := (armSettings_isSome v).2 hok
      obtain ⟨-, -, -, -, hperiod, habs, -, -⟩ := hok
      obtain ⟨hkind, hbasis, hwhen, -, -, ha, -⟩ := armSettings_eq_some.1 hx
      obtain ⟨hlo, hhi⟩ := hperiod hk
      have hxb : x.basis = .absolute := (armSettings_absolute hx).2 hb
      have hxk : x.kind = .periodic v.period.toNat := by
        rw [hk, timerKindOf_periodic hlo hhi, Option.some.injEq] at hkind
        exact hkind.symm
      have hxw : x.when = v.when.toNat / 4294967296 * 1000000000 + v.when.toNat % 4294967296 := by
        rw [hxb, whenOf_absolute (habs hb), Option.some.injEq] at hwhen
        exact hwhen.symm
      have hallowed : pinAllowed h x (requestTaken h q (.arm v) s) = true := by
        rw [pinAllowed_iff]
        intro u hu
        rcases pinUseOf_eq_some ha with ⟨-, hnone⟩ | ⟨p, a, u', hf, hu', hp, -⟩
        · cases hnone.symm.trans hu
        · cases hu'.symm.trans hu
          obtain ⟨k, r, hpk, hr, hro⟩ := hpin p a hf
          have hku : k = u.pin := Fin.ext (hpk.symm.trans hp)
          exact ⟨r, hku ▸ hr, hro⟩
      have hp1 : 1 ≤ v.period.toNat := by
        obtain ⟨hmin, -⟩ := armSettings_period hx hxk
        omega
      refine arm_refused ht (armAt_of_no_deadline owned (fun _ => hset) hx hallowed ?_)
      exact firstDeadline_beyond hxb hxk hp1 (by rw [hxw]; exact hbeyond)

end Sys2Proof.Proofs
end

section
/-! ARM taken (R47 to R52, R63): the first deadline, the arming sequence, and an expiry in the event. -/

namespace Sys2Proof.Machine

/-! ### The first deadline (R49, R51) -/

theorem catchUp_of_later {deadline : Int} {now : Nat} (period : Nat) (h : (now : Int) < deadline) :
    catchUp deadline period now = (deadline, 0) := by
  unfold catchUp
  rw [if_neg (by omega)]

/-- The number of periods that takes a deadline past the count by at most one period (R51). -/
theorem periods_unique {start period now j k : Nat} (hj : now < start + j * period)
    (hj' : start + j * period ≤ now + period) (hk : now < start + k * period)
    (hk' : start + k * period ≤ now + period) : j = k := by
  have lt_succ : ∀ {m n : Nat}, start + m * period ≤ now + period → now < start + n * period → m < n + 1 :=
    fun {m n} hm hn => Nat.lt_of_mul_lt_mul_right (a := period) (by rw [Nat.add_mul]; omega)
  have := lt_succ hj' hk
  have := lt_succ hk' hj
  omega

/-- The model's first deadline is the one that R49 and R51 give. -/
theorem firstDeadline_of_spec {x : ArmSettings} {now first skipped : Nat}
    (hp : ∀ p, x.kind = .periodic p → 1 ≤ p) (h : FirstDeadline x now first skipped) :
    firstDeadline x now = some ((first : Int), skipped) := by
  unfold FirstDeadline at h
  unfold firstDeadline
  cases hb : x.basis with
  | elapsed =>
    simp only [hb] at h
    obtain ⟨rfl, rfl⟩ := h
    rfl
  | absolute =>
    cases hk : x.kind with
    | once =>
      simp only [hb, hk] at h
      obtain ⟨rfl, rfl⟩ := h
      rfl
    | periodic p =>
      simp only [hb, hk] at h
      obtain ⟨hfirst, hearly, hlate, hmax⟩ := h
      have hcaught : catchUp x.when p now = ((first : Int), skipped) := by
        rcases Nat.lt_or_ge now x.when with hlt | hle
        · have hzero := hearly hlt
          subst hzero
          rw [catchUp_of_later p (by omega), hfirst]
          simp
        · obtain ⟨next, k, e⟩ : ∃ next k, catchUp x.when p now = (next, k) := ⟨_, _, rfl⟩
          obtain ⟨hnext, hlater, hzero, hclose⟩ := catchUp_spec (hp p hk) e
          have hk0 : k ≠ 0 := fun c => by have := hzero.1 c; omega
          have hle' := hclose hk0
          obtain ⟨-, hlater', hclose'⟩ := hlate hle
          have hsame : k = skipped :=
            periods_unique (start := x.when) (period := p) (now := now) (by omega) (by omega) (by omega) (by omega)
          rw [e, hnext, hfirst, hsame]
          simp
      have hmax' : (first : Int) ≤ (maxTime : Nat) := by exact_mod_cast hmax
      simp only [hcaught, if_pos hmax']

/-! ### The arming sequence (R63) -/

/-- A filter that keeps more keeps a longer list. -/
theorem length_filter_lt {α : Type} {l : List α} {p q : α → Bool} (hpq : ∀ x, p x = true → q x = true) {a : α}
    (ha : a ∈ l) (hq : q a = true) (hp : p a = false) : (l.filter p).length < (l.filter q).length := by
  have hsub : (l.filter p).Sublist (l.filter q) := List.monotone_filter_right l hpq
  refine Nat.lt_of_le_of_ne hsub.length_le fun hlen => ?_
  have hmem : a ∈ l.filter p := hsub.eq_of_length hlen ▸ List.mem_filter.2 ⟨ha, hq⟩
  rw [List.mem_filter, hp] at hmem
  cases hmem.2

theorem mem_armedEntries_of_armed {s : State} {j : Slot} {x : Timer} {a : Arming} (hx : s.timer j = some x)
    (ha : x.armed = some a) : (⟨j, a.deadline, a.seq⟩ : Entry) ∈ armedEntries s :=
  mem_armedEntries.2 (by simp [entryOf, hx, ha])

/-- An ARMED record's new sequence is below the number of the ARMED records (R63). -/
theorem seqRank_lt_length {s : State} {j : Slot} {x : Timer} {a : Arming} (hx : s.timer j = some x)
    (ha : x.armed = some a) : seqRank s a.seq < (armedEntries s).length := by
  have := length_filter_lt (p := fun e => e.seq < a.seq) (q := fun _ => true) (fun _ _ => rfl)
    (mem_armedEntries_of_armed hx ha) rfl (by simp)
  rwa [List.filter_eq_self.2 fun _ _ => rfl] at this

/-- The renumbering keeps the order of the sequences (R63). -/
theorem seqRank_lt_seqRank {s : State} {j : Slot} {x : Timer} {a : Arming} {n : Nat} (hx : s.timer j = some x)
    (ha : x.armed = some a) (hn : a.seq < n) : seqRank s a.seq < seqRank s n := by
  refine length_filter_lt (fun e he => ?_) (mem_armedEntries_of_armed hx ha) (by simpa using hn) (by simp)
  simp only [decide_eq_true_iff] at he ⊢
  omega

/-- With one slot not ARMED at most 47 are. -/
theorem length_armedEntries_lt {s : State} {i : Slot} (hi : entryOf s i = none) : (armedEntries s).length ≤ 47 := by
  have hmem : i ∈ allSlots := List.mem_finRange i
  have hperm : (armedEntries s).Perm ((allSlots.erase i).filterMap (entryOf s)) := by
    have := (List.perm_cons_erase hmem).filterMap (entryOf s)
    rwa [List.filterMap_cons_none hi] at this
  have herase : (allSlots.erase i).length = 47 := by
    rw [List.length_erase_of_mem hmem]
    rfl
  exact hperm.length_eq ▸ herase ▸ List.length_filterMap_le _ _

section SequenceForSlot

variable {h : HostId} {i : Slot} {old : Timer} {x : ArmSettings} {first : Int} {skipped : Nat} {s : State}

/-- The records among which an ARM of slot `i` takes its sequence: that of `i` is withdrawn. -/
def withdrawnAt (i : Slot) (old : Timer) (s : State) : State := s.setTimer i (some { old with armed := none })

theorem withdrawnAt_timer_of_ne {j : Slot} (hj : j ≠ i) : (withdrawnAt i old s).timer j = s.timer j := by
  rw [withdrawnAt, State.setTimer_timer, if_neg hj]

theorem armPlaced_timer_of_ne {j : Slot} (hj : j ≠ i) :
    (armPlaced h i old x first skipped s).timer j = (takeSequence (withdrawnAt i old s)).2.timer j := by
  rw [armPlaced, State.setTimer_timer, if_neg hj]
  rfl

theorem armPlaced_timer_self : (armPlaced h i old x first skipped s).timer i =
    some (armedRecord h x first (sequenceForSlot i old s).1 skipped) := State.setTimer_timer_self _ _ _

/-- An arming takes its sequence as R63 gives it. -/
theorem armPlaced_sequenceTaken (hs : s.pool.nextSeq ≤ 4294967295) :
    SequenceTaken i (sequenceForSlot i old s).1 s (armPlaced h i old x first skipped s) := by
  have hseq : (sequenceForSlot i old s).1 = (takeSequence (withdrawnAt i old s)).1 := rfl
  have hnext : (armPlaced h i old x first skipped s).pool.nextSeq =
      (takeSequence (withdrawnAt i old s)).2.pool.nextSeq := rfl
  have hcounter : (withdrawnAt i old s).pool.nextSeq = s.pool.nextSeq := rfl
  unfold SequenceTaken
  rw [hnext, hseq]
  rcases Nat.lt_or_ge s.pool.nextSeq 4294967295 with hlt | hge
  · have htake := takeSequence_of_lt (s := withdrawnAt i old s) hlt
    rw [htake]
    refine ⟨rfl, fun _ => ⟨hcounter, fun j hj => ?_⟩, fun c => by omega⟩
    rw [armPlaced_timer_of_ne hj, htake, withNextSeq_timer, withdrawnAt_timer_of_ne hj]
  · have htake := takeSequence_of_le (s := withdrawnAt i old s) hge
    have hidle : entryOf (withdrawnAt i old s) i = none := by simp [entryOf, withdrawnAt]
    rw [htake]
    refine ⟨rfl, fun c => by omega, fun _ => ⟨length_armedEntries_lt hidle, seqRank (withdrawnAt i old s),
      fun j hj => ?_, fun j y a hj hy ha => ⟨?_, fun k z b hk hz hb hab => ?_⟩⟩⟩
    · rw [armPlaced_timer_of_ne hj, htake, withNextSeq_timer, renumber_timer, withdrawnAt_timer_of_ne hj]
      rfl
    · exact seqRank_lt_length ((withdrawnAt_timer_of_ne hj).trans hy) ha
    · exact seqRank_lt_seqRank ((withdrawnAt_timer_of_ne hj).trans hy) ha hab

end SequenceForSlot

/-! ### The answer (R52) -/

section ArmAnswer

variable {i : Slot} {old t : Timer} {fired late : Bool} {s : State}

theorem armAnswer_of_armed {a : Arming} (ht : s.timer i = some t) (ha : t.armed = some a) :
    armAnswer i old fired late s = [1, 2] ++ timeBytes (timeValue a.deadline) ++ [flagCode fired] ++
      bytesOf 2 t.missed ++ bytesOf 2 old.fire ++ [if late then 2 else 0] := by
  simp [armAnswer, ht, ha, payloadOfFields, presenceBits, bitsToNat, Field.bytes, timerStateCode]

theorem armAnswer_of_idle (ht : s.timer i = some t) (ha : t.armed = none) :
    armAnswer i old fired late s = [0, 1] ++ List.replicate 9 0 ++ [flagCode fired] ++ bytesOf 2 t.missed ++
      bytesOf 2 old.fire ++ [if late then 2 else 0] := by
  simp [armAnswer, ht, ha, payloadOfFields, presenceBits, bitsToNat, Field.bytes, timerStateCode]

end ArmAnswer

/-! ### The request -/

/-- What an ARM of the caller's own slot needs to be taken (R47). -/
structure ArmTaken (h : HostId) (v : ArmArg) (i : Slot) (old : Timer) (x : ArmSettings) (first skipped : Nat)
    (s : State) : Prop where
  slot : v.slot.toNat = i.val
  record : s.timer i = some old
  owner : old.owner = h
  settings : armSettings v = some x
  set : x.basis = .absolute → s.count.setState ≠ .unset
  pin : ∀ u, x.action = some u → ∃ r, s.pin u.pin = some r ∧ r.owner = h
  first : FirstDeadline x s.count.time first skipped

section ArmRequest

variable {h : HostId} {q : Byte} {v : ArmArg} {i : Slot} {old : Timer} {x : ArmSettings} {first skipped : Nat}
  {s : State}

/-- The state that the arming of a request starts from. -/
def armRequested (h : HostId) (q : Byte) (v : ArmArg) (s : State) : State := requestTaken h q (.arm v) s

theorem ArmTaken.armAt (k : ArmTaken h v i old x first skipped s) :
    armAt h v (armRequested h q v s) = (armTimer h i old x first skipped (armRequested h q v s),
      .okWith (armAnswer i old (decide ((first : Int) ≤ s.count.time))
        (decide ((first : Int) ≤ s.count.time) && x.basis = .absolute)
        (armTimer h i old x first skipped (armRequested h q v s)))) :=
  armAt_taken (s := armRequested h q v s) (ownedTimer_of_owner k.slot k.record k.owner) k.settings k.set
    (pinAllowed_iff.2 k.pin)
    (firstDeadline_of_spec (fun _ hp => (by decide : 1 ≤ 10000).trans (armSettings_period k.settings hp).1) k.first)

/-- The request that arms: the state it leaves, its frame and its answer. -/
theorem ArmTaken.request (k : ArmTaken h v i old x first skipped s) (ht : Takes h 0x42 q s) {parts : List Part}
    {t : State} {payload : List Byte} (hpool : OnlyChanges parts (armRequested h q v s) t) (hp : .ports ∉ parts)
    (htimer : armTimer h i old x first skipped (armRequested h q v s) = t)
    (hpayload : armAnswer i old (decide ((first : Int) ≤ s.count.time))
      (decide ((first : Int) ≤ s.count.time) && x.basis = .absolute) t = payload) :
    exec (.arm h q v) s = .next (holdAnswer h 0x42 q ⟨.ok, payload⟩ t) ∧
      RequestFrame h parts s (holdAnswer h 0x42 q ⟨.ok, payload⟩ t) ∧
      Answers h 0x42 q .ok payload (holdAnswer h 0x42 q ⟨.ok, payload⟩ t) := by
  obtain ⟨hr, ha⟩ := ht
  obtain ⟨-, -, -, -, -, -, -, hports, -⟩ := id hpool
  refine request_held (r := .arm v) (levels := noLevels) hr rfl (.inl ha) (fun c => by cases c) ?_ hpool (hports hp)
  have hat := k.armAt (q := q)
  rw [htimer, hpayload] at hat
  rw [carryOut]
  exact congrArg atOnce hat

end ArmRequest

end Sys2Proof.Machine

namespace Sys2Proof.Proofs

open Sys2Proof.Machine

/-- Settles O31: the arming writes the record with the sequence it takes, and no expiry is due. -/
theorem armForLater : Obligations.ArmForLater := by
  unfold Obligations.ArmForLater
  intro h q v i old x first skipped s ht hinv hslot hrecord howner hsettings hset hpin hfirst hlater
  have k : ArmTaken h v i old x first skipped s := ⟨hslot, hrecord, howner, hsettings, hset, hpin, hfirst⟩
  have hnot : ¬(first : Int) ≤ s.count.time := by omega
  obtain ⟨hcounter, -⟩ := hinv
  obtain ⟨e, hframe, hanswers⟩ := k.request ht (armPlaced_frame _ _ _ _ _ _ _) (by simp)
    (armTimer_of_later _ _ _ _ _ _ _ hnot) (armAnswer_of_armed armPlaced_timer_self rfl)
  refine ⟨_, _, e, hframe, armPlaced_timer_self, armPlaced_sequenceTaken (s := armRequested h q v s) hcounter, ?_⟩
  simpa [armedRecord, hnot, flagCode] using hanswers

end Sys2Proof.Proofs
end

section
/-! ARM for a deadline already reached: the timer expires in the event (R50, R67, R68). -/

namespace Sys2Proof

theorem Quad.ext_get {α : Type} {v w : Quad α} (e : ∀ i, v.get i = w.get i) : v = w := by
  have self : ∀ u : Quad α, u = ⟨u.get 0, u.get 1, u.get 2, u.get 3⟩ := fun _ => rfl
  rw [self v, self w, e, e, e, e]

end Sys2Proof

namespace Sys2Proof.Machine

/-! ### One expiry, in the words of the statements -/

section ExpireArmed

variable {i : Slot} {x : Timer} {a : Arming} {now : Nat} {u : State} (late : Bool) (hx : u.timer i = some x)
  (ha : x.armed = some a)

include hx ha

/-- The entry of an ARMED record in the deadline queue (R61). -/
theorem entryOf_of_armed : entryOf u i = some ⟨i, a.deadline, a.seq⟩ := by simp [entryOf, hx, ha]

/-- The action of an expiry reaches its pin and no other (R67 part 2). -/
theorem expire_actionApplied : ActionApplied x.action i u (expire i late now u) := by
  have hpin := expire_pin (now := now) late (e := ⟨i, a.deadline, a.seq⟩) (entryOf_of_armed hx ha)
  unfold ActionApplied
  split
  · next hnone =>
    refine Quad.ext_get fun p => (hpin p).trans ?_
    simp [actionAt, hx, hnone, applyOption, State.pin]
  · next y hy =>
    intro p
    rw [hpin p, actionAt_of_timer (e := ⟨i, a.deadline, a.seq⟩) hx hy]
    by_cases hp : p = y.pin
    · rw [if_pos hp, if_pos hp.symm]
      rfl
    · rw [if_neg hp, if_neg fun c => hp c.symm]
      rfl

/-- The notice of an expiry reaches its owner's box and no other, when the timer notifies (R67 part 3, R68). -/
theorem expire_expiryPosted : ExpiryPosted x (expiryNotice u i x a.deadline (min 65535 (x.fire + 1)) late) u
    (expire i late now u) := by
  have hbox := expire_box (now := now) (t := u) late (e := ⟨i, a.deadline, a.seq⟩) (entryOf_of_armed hx ha) rfl rfl
  have hnotice := fun g => noticeTo_of_timer (g := g) (t := u) late (e := ⟨i, a.deadline, a.seq⟩) hx
  unfold ExpiryPosted
  split
  · next hn =>
    intro g
    by_cases hg : g = x.owner
    · subst hg
      rw [hbox, (hnotice x.owner).trans (if_pos ⟨hn, rfl⟩)]
      by_cases hatt : u.attached x.owner = true
      · rw [if_pos hatt, if_pos ⟨rfl, hatt⟩]
        rfl
      · rw [if_neg hatt, if_neg (by simp [hatt])]
    · have hother : ¬(g = x.owner ∧ u.attached x.owner = true) := fun c => hg c.1
      rw [hbox, (hnotice g).trans (if_neg (by simp [Ne.symm hg])), if_neg hother]
      exact ite_self _
  · next hn =>
    refine PerHost.ext_get fun g => (hbox g).trans ?_
    rw [(hnotice g).trans (if_neg (by simp [hn]))]
    exact ite_self _

end ExpireArmed

/-! ### The request -/

/-- An action seen through a request that leaves the pins and the count. -/
theorem ActionApplied.of_request {action : Option PinUse} {h : HostId} {op q : Byte} {rep : Reply} {i : Slot}
    {s r u : State} (hu : ActionApplied action i r u) (hp : r.pins = s.pins) (hc : r.count = s.count) :
    ActionApplied action i s (holdAnswer h op q rep u) := by
  unfold ActionApplied at hu ⊢
  cases action with
  | none => exact hu.trans hp
  | some y =>
    have hpin : ∀ p, r.pin p = s.pin p := fun p => by rw [State.pin, hp]; rfl
    intro p
    rw [holdAnswer_pin, hu p, hc, hpin]

/-- A notice seen through a request that leaves the boxes and the sessions. -/
theorem ExpiryPosted.of_request {x : Timer} {n : Notice} {h : HostId} {op q : Byte} {rep : Reply} {s r u : State}
    (hu : ExpiryPosted x n r u) (hb : r.notices = s.notices) (ha : ∀ g, r.attached g = s.attached g) :
    ExpiryPosted x n s (holdAnswer h op q rep u) := by
  have hbox : ∀ g, r.box g = s.box g := fun g => by rw [State.box, hb]; rfl
  unfold ExpiryPosted at hu ⊢
  split
  · next hn =>
    rw [if_pos hn] at hu
    intro g
    rw [holdAnswer_box, hu g, hbox, ha]
  · next hn =>
    rw [if_neg hn] at hu
    exact hu.trans hb

theorem Answers.of_payload {h : HostId} {op q : Byte} {res : Result} {p p' : List Byte} {t : State}
    (ha : Answers h op q res p t) (e : p = p') : Answers h op q res p' t := e ▸ ha

/-- An expiry in the event leaves the arming sequence as it was taken. -/
theorem SequenceTaken.of_same {i : Slot} {n : Nat} {s t u : State} (ht : SequenceTaken i n s t)
    (hseq : u.pool.nextSeq = t.pool.nextSeq) (htimer : ∀ j, j ≠ i → u.timer j = t.timer j) : SequenceTaken i n s u := by
  obtain ⟨hnext, hlow, hfull⟩ := ht
  refine ⟨hseq.trans hnext, fun hs => ?_, fun hs => ?_⟩
  · obtain ⟨hn, hsame⟩ := hlow hs
    exact ⟨hn, fun j hj => (htimer j hj).trans (hsame j hj)⟩
  · obtain ⟨hn, f, hsame, hmono⟩ := hfull hs
    exact ⟨hn, f, fun j hj => (htimer j hj).trans (hsame j hj), hmono⟩

/-- A deadline already reached skips no period: it is not ABSOLUTE PERIODIC, and an ELAPSED one is the count itself
(R49, R51). -/
theorem FirstDeadline.of_reached {x : ArmSettings} {now first : Nat} (h : FirstDeadline x now first 0)
    (hle : first ≤ now) {p : Nat} (hk : x.kind = .periodic p) : x.basis = .elapsed ∧ first = now := by
  unfold FirstDeadline at h
  cases hb : x.basis with
  | elapsed =>
    simp only [hb] at h
    exact ⟨rfl, by omega⟩
  | absolute =>
    simp only [hb, hk] at h
    obtain ⟨hfirst, hearly, hlate, -⟩ := h
    rcases Nat.lt_or_ge now x.when with hlt | hge
    · omega
    · obtain ⟨hone, -⟩ := hlate hge
      omega

/-- The record that an expiry in the event leaves, apart from its arming: the settings given, the fire count 1 (R50). -/
def firedRecord (h : HostId) (x : ArmSettings) (armed : Option Arming) : Timer :=
  ⟨h, armed, x.kind, x.basis, x.cls, x.notify, x.action, x.tag, 1, 0⟩

/-- A ONCE timer expired in the event is IDLE (R50, R70). -/
theorem recognised_armedRecord_once {h : HostId} {x : ArmSettings} {first : Int} {n now : Nat} (hle : first ≤ now)
    (hk : x.kind = .once) : recognised now (armedRecord h x first n 0) = firedRecord h x none := by
  rw [recognised_of_reached rfl hle]
  simp [Timer.settle, armedRecord, firedRecord, hk]

/-- An ELAPSED PERIODIC timer expired in the event is ARMED for the count plus its period (R50, R71). -/
theorem recognised_armedRecord_periodic {h : HostId} {x : ArmSettings} {n now p : Nat} (hk : x.kind = .periodic p)
    (hb : x.basis = .elapsed) (hp : 1 ≤ p) :
    recognised now (armedRecord h x now n 0) = firedRecord h x (some ⟨now + p, n⟩) := by
  have hcaught : catchUp ((now : Int) + p) p now = ((now : Int) + p, 0) := catchUp_of_later p (by omega)
  rw [recognised_of_reached rfl le_rfl]
  simp [Timer.settle, armedRecord, firedRecord, hk, hb, hcaught, saturate]

section ArmReached

variable {h : HostId} {q : Byte} {v : ArmArg} {i : Slot} {old : Timer} {x : ArmSettings} {first : Nat} {s : State}

/-- The state with the record of an ARM taken for a deadline already reached, its expiry yet to come. -/
def reachedPlaced (h : HostId) (q : Byte) (v : ArmArg) (i : Slot) (old : Timer) (x : ArmSettings) (first : Nat)
    (s : State) : State := armPlaced h i old x first 0 (armRequested h q v s)

/-- The state that such an ARM leaves to the port block (R50). -/
def reachedExpired (h : HostId) (q : Byte) (v : ArmArg) (i : Slot) (old : Timer) (x : ArmSettings) (first : Nat)
    (s : State) : State :=
  expire i (x.basis = .absolute) s.count.time (reachedPlaced h q v i old x first s)

/-- The arming sequence that it takes. -/
def reachedSequence (h : HostId) (q : Byte) (v : ArmArg) (i : Slot) (old : Timer) (s : State) : Nat :=
  (sequenceForSlot i old (armRequested h q v s)).1

theorem reachedPlaced_timer : (reachedPlaced h q v i old x first s).timer i =
    some (armedRecord h x first (reachedSequence h q v i old s) 0) := armPlaced_timer_self

theorem reachedPlaced_frame : OnlyChanges [.pool] (armRequested h q v s) (reachedPlaced h q v i old x first s) :=
  armPlaced_frame _ _ _ _ _ _ _

theorem reachedExpired_frame :
    OnlyChanges [.pool, .pins, .notices] (armRequested h q v s) (reachedExpired h q v i old x first s) :=
  (reachedPlaced_frame.mono (by simp)).trans (expire_frame _ _ _ _)

theorem reachedExpired_timer (hle : (first : Int) ≤ s.count.time) (j : Slot) :
    (reachedExpired h q v i old x first s).timer j = if j = i
      then some (recognised s.count.time (armedRecord h x first (reachedSequence h q v i old s) 0))
      else (reachedPlaced h q v i old x first s).timer j := by
  have hexpired := expire_timer_of_reached (now := s.count.time) (x.basis = .absolute)
    (e := ⟨i, first, reachedSequence h q v i old s⟩)
    (entryOf_of_armed (u := reachedPlaced h q v i old x first s) reachedPlaced_timer rfl) hle j
  refine hexpired.trans ?_
  by_cases hj : j = i
  · rw [if_pos hj, if_pos hj, hj, reachedPlaced_timer, Option.map_some]
  · rw [if_neg hj, if_neg hj]

theorem reachedExpired_sequenceTaken (hs : s.pool.nextSeq ≤ 4294967295) (hle : (first : Int) ≤ s.count.time) :
    SequenceTaken i (reachedSequence h q v i old s) s (reachedExpired h q v i old x first s) :=
  (armPlaced_sequenceTaken (s := armRequested h q v s) hs).of_same (expire_nextSeq _ _)
    fun j hj => (reachedExpired_timer hle j).trans (if_neg hj)

theorem reachedExpired_actionApplied (op : Byte) (rep : Reply) :
    ActionApplied x.action i s (holdAnswer h op q rep (reachedExpired h q v i old x first s)) := by
  obtain ⟨hcount, -, -, -, -, hpins, -⟩ := reachedPlaced_frame (h := h) (q := q) (v := v) (i := i) (old := old) (x := x)
    (first := first) (s := s)
  exact (expire_actionApplied (x.basis = .absolute) reachedPlaced_timer rfl).of_request (hpins (by simp))
    (hcount (by simp))

theorem reachedExpired_expiryPosted (op : Byte) (rep : Reply) :
    ExpiryPosted (firedRecord h x none) (expiryNotice s i (firedRecord h x none) first 1 (x.basis = .absolute)) s
      (holdAnswer h op q rep (reachedExpired h q v i old x first s)) := by
  have frame := reachedPlaced_frame (h := h) (q := q) (v := v) (i := i) (old := old) (x := x) (first := first) (s := s)
  obtain ⟨hcount, hsup, -, hnotices, -⟩ := id frame
  have hatt : ∀ g, (reachedPlaced h q v i old x first s).attached g = s.attached g := fun g => by
    rw [frame.attached (by simp), armRequested, requestTaken_attached]
  have hposted := (expire_expiryPosted (now := s.count.time) (x.basis = .absolute) reachedPlaced_timer rfl).of_request
    (h := h) (op := op) (q := q) (rep := rep) (s := s) (hnotices (by simp)) hatt
  have hnotice : expiryNotice (reachedPlaced h q v i old x first s) i (firedRecord h x none) first 1
      (x.basis = .absolute) = expiryNotice s i (firedRecord h x none) first 1 (x.basis = .absolute) := by
    simp [expiryNotice, holdover, hsup, hcount, armRequested]
  exact hnotice ▸ hposted

end ArmReached

end Sys2Proof.Machine

namespace Sys2Proof.Proofs

open Sys2Proof.Machine

/-- Settles O32: the arming writes the record, and its expiry against the count settles it. -/
theorem armExpiresAtOnce : Obligations.ArmExpiresAtOnce := by
  unfold Obligations.ArmExpiresAtOnce
  intro h q v i old x first s ht hinv hslot hrecord howner hsettings hset hpin hfirst hreached
  have k : ArmTaken h v i old x first 0 s := ⟨hslot, hrecord, howner, hsettings, hset, hpin, hfirst⟩
  have hle : (first : Int) ≤ s.count.time := by omega
  have htimer := fun j => reachedExpired_timer (h := h) (q := q) (v := v) (i := i) (old := old) (x := x) hle j
  obtain ⟨hcounter, -⟩ := hinv
  obtain ⟨e, hframe, hanswers⟩ := k.request ht reachedExpired_frame (by simp)
    (armTimer_of_reached _ _ _ _ _ _ _ hle) rfl
  refine ⟨_, reachedSequence h q v i old s, e, hframe, reachedExpired_sequenceTaken hcounter hle,
    reachedExpired_actionApplied _ _, reachedExpired_expiryPosted _ _, fun hk => ?_, fun p hk => ?_⟩
  · have hrecord := (htimer i).trans (if_pos rfl)
    rw [recognised_armedRecord_once hle hk] at hrecord
    refine ⟨hrecord, hanswers.of_payload ?_⟩
    rw [armAnswer_of_idle hrecord rfl]
    simp [hle, firedRecord, flagCode, bytesOf]
  · obtain ⟨hb, rfl⟩ := hfirst.of_reached hreached hk
    have hp : 1 ≤ p := (by decide : 1 ≤ 10000).trans (armSettings_period hsettings hk).1
    have hrecord := (htimer i).trans (if_pos rfl)
    rw [recognised_armedRecord_periodic hk hb hp] at hrecord
    have hdeadline : timeValue ((s.count.time : Int) + p) = s.count.time + p := timeValue_natCast (s.count.time + p)
    refine ⟨hrecord, hanswers.of_payload ?_⟩
    rw [armAnswer_of_armed hrecord rfl, hdeadline]
    simp [hb, firedRecord, flagCode, bytesOf]

end Sys2Proof.Proofs
end

section
/-! The contents of the deadline queue (R61, R62). -/

namespace Sys2Proof.Machine

/-- The entry of a slot carries the deadline and the sequence of its arming (R61). -/
theorem entryOf_eq_some_iff {s : State} {i : Slot} {e : Entry} : entryOf s i = some e ↔
    ∃ x a, s.timer i = some x ∧ x.armed = some a ∧ e = ⟨i, a.deadline, a.seq⟩ := by
  simp only [entryOf, Option.bind_eq_some_iff, Option.map_eq_some_iff]
  constructor
  · rintro ⟨x, hx, a, ha, rfl⟩
    exact ⟨x, a, hx, ha, rfl⟩
  · rintro ⟨x, a, hx, ha, rfl⟩
    exact ⟨x, hx, a, ha, rfl⟩

theorem entry_eq_iff {e : Entry} {a : Arming} :
    e = ⟨e.slot, a.deadline, a.seq⟩ ↔ e.deadline = a.deadline ∧ e.seq = a.seq := by
  cases e
  simp

theorem mem_deadlineQueue {s : State} {e : Entry} : e ∈ deadlineQueue s ↔ entryOf s e.slot = some e := by
  rw [(deadlineQueue_perm s).mem_iff, mem_armedEntries]

/-- No two entries of the queue name one slot (R61). -/
theorem deadlineQueue_slots (s : State) : (deadlineQueue s).Pairwise fun x y => x.slot ≠ y.slot :=
  ((deadlineQueue_perm s).pairwise_iff fun h => h.symm).2 (armedEntries_slots s)

theorem length_deadlineQueue (s : State) : (deadlineQueue s).length ≤ 48 :=
  (deadlineQueue_perm s).length_eq ▸ length_armedEntries s

end Sys2Proof.Machine

namespace Sys2Proof.Proofs

open Sys2Proof.Machine

/-- Settles O34: the queue is the armed entries sorted by `Precedes`. -/
theorem deadlineQueueInOrder : Obligations.DeadlineQueueInOrder := by
  unfold Obligations.DeadlineQueueInOrder
  refine fun s => ⟨fun e => ?_, List.pairwise_map.2 (deadlineQueue_slots s), length_deadlineQueue s,
    (deadlineQueue_pairwise s).imp (precedes_iff _ _).1⟩
  rw [mem_deadlineQueue, entryOf_eq_some_iff]
  simp only [entry_eq_iff]

end Sys2Proof.Proofs
end

section
/-! EXPIRY of the head of the deadline queue (R65, R67 to R71). -/

namespace Sys2Proof.Machine

/-! ### The head of the queue (R65) -/

theorem whileRunning_of_running {f : State → State} {s : State} (h : s.running = true) : whileRunning f s = f s := by
  rw [whileRunning, if_pos h]

theorem expireHead_of_later {s : State} (h : ∀ e, (deadlineQueue s).head? = some e → s.count.time < e.deadline) :
    expireHead s = s := by
  unfold expireHead expireReached
  cases he : (deadlineQueue s).head? with
  | none => rfl
  | some e => exact if_neg (Int.not_le.2 (h e he))

theorem expireHead_of_reached {s : State} {e : Entry} (he : (deadlineQueue s).head? = some e)
    (hle : e.deadline ≤ s.count.time) : expireHead s = expire e.slot false s.count.time s := by
  unfold expireHead expireReached
  simp only [he, if_pos hle]
  rfl

/-! ### The record settled (R70, R71) -/

theorem settle_of_once {t : Timer} (a : Arming) (now : Nat) (hk : t.kind = .once) :
    t.settle a now = { t with armed := none } := by
  unfold Timer.settle
  simp only [hk]

/-- A PERIODIC record settled: the next deadline later than the count, and the periods skipped (R71). -/
theorem settle_of_periodic {t : Timer} (a : Arming) (now : Nat) {p : Nat} (hk : t.kind = .periodic p) (hp : 1 ≤ p) :
    ∃ k : Nat, now < a.deadline + p + k * p ∧ (k ≠ 0 → a.deadline + p + k * p ≤ now + p) ∧
      t.settle a now = { t with
        missed := min 65535 (t.missed + k)
        armed := if t.basis = .absolute ∧ 1099511627776000000000 ≤ a.deadline + p + k * p then none
          else some ⟨a.deadline + p + k * p, a.seq⟩ } := by
  obtain ⟨next, k, e⟩ : ∃ next k, catchUp (a.deadline + p) p now = (next, k) := ⟨_, _, rfl⟩
  obtain ⟨hnext, hlater, -, hclose⟩ := catchUp_spec hp e
  subst hnext
  refine ⟨k, hlater, hclose, ?_⟩
  have beyond : ((maxTime : Nat) : Int) < a.deadline + p + k * p ↔
      1099511627776000000000 ≤ a.deadline + p + k * p := by
    simp only [maxTime, secondsLimit, nsPerSecond]
    omega
  unfold Timer.settle
  simp only [hk, e, beyond]
  split <;> rfl

end Sys2Proof.Machine

namespace Sys2Proof.Proofs

open Sys2Proof.Machine

/-- Settles O35: EXPIRY is one expiry of the head, whose record is settled against the count. -/
theorem expiryOfHead : Obligations.ExpiryOfHead := by
  unfold Obligations.ExpiryOfHead
  intro s hrun
  have hexec : exec .expiry s = .next (expireHead s) := congrArg Host.Outcome.next (whileRunning_of_running hrun)
  refine ⟨fun hlater => by rw [hexec, expireHead_of_later hlater], fun e x he hle hx hp => ?_⟩
  obtain ⟨y, a, hy, ha, heq⟩ := entryOf_eq_some_iff.1 (mem_deadlineQueue.1 (List.mem_of_mem_head? he))
  obtain rfl : x = y := Option.some.inj (hx.symm.trans hy)
  obtain ⟨hdeadline, hseq⟩ := entry_eq_iff.1 heq
  have htimer := expire_timer e.slot false s.count.time s hx ha
  have hsettled := (htimer e.slot).trans (if_pos rfl)
  rw [hexec, expireHead_of_reached he hle, hdeadline, hseq]
  refine ⟨_, rfl, expire_frame _ _ _ _, fun j hj => (htimer j).trans (if_neg hj), expire_nextSeq _ _,
    expire_actionApplied false hx ha, expire_expiryPosted false hx ha, fun hk => ?_, fun p hk => ?_⟩
  · exact hsettled.trans (congrArg some (settle_of_once (t := { x with fire := min 65535 (x.fire + 1) }) a _ hk))
  · obtain ⟨k, hlater, hclose, hrecord⟩ :=
      settle_of_periodic (t := { x with fire := min 65535 (x.fire + 1) }) a s.count.time hk (hp p hk)
    exact ⟨k, hlater, hclose, by rw [hsettled, hrecord]⟩

end Sys2Proof.Proofs
end

section
/-! The arming sequences: every operation but ARM and the resets leaves the counter and the sequences of the timers that
stay ARMED; an ARM takes a sequence that no other ARMED timer has (R62, R63). -/

namespace Sys2Proof.Machine

/-! ### The sequences of the ARMED timers -/

/-- The arming sequence of the timer in slot `i`, while it is ARMED. -/
def sequenceAt (s : State) (i : Slot) : Option Nat := (s.timer i).bind fun x => x.armed.map (·.seq)

theorem sequenceAt_eq_some {s : State} {i : Slot} {n : Nat} :
    sequenceAt s i = some n ↔ ∃ x a, s.timer i = some x ∧ x.armed = some a ∧ a.seq = n := by
  simp only [sequenceAt, Option.bind_eq_some_iff, Option.map_eq_some_iff]
  constructor
  · rintro ⟨x, hx, a, ha, hn⟩
    exact ⟨x, a, hx, ha, hn⟩
  · rintro ⟨x, a, hx, ha, hn⟩
    exact ⟨x, hx, a, ha, hn⟩

theorem sequenceAt_of_timer {s : State} {i : Slot} {x : Timer} (hx : s.timer i = some x) :
    sequenceAt s i = x.armed.map (·.seq) := by rw [sequenceAt, hx, Option.bind_some]

theorem sequenceAt_congr {s t : State} {i : Slot} (h : t.timer i = s.timer i) : sequenceAt t i = sequenceAt s i := by
  rw [sequenceAt, sequenceAt, h]

/-- `SequenceInv` in terms of the sequences alone. -/
theorem sequenceInv_iff (s : State) : SequenceInv s ↔ s.pool.nextSeq ≤ 4294967295 ∧
    (∀ i n, sequenceAt s i = some n → n < s.pool.nextSeq) ∧
    ∀ i j n, sequenceAt s i = some n → sequenceAt s j = some n → i = j := by
  simp only [sequenceAt_eq_some]
  constructor
  · rintro ⟨hcounter, h⟩
    refine ⟨hcounter, ?_, ?_⟩
    · rintro i n ⟨x, a, hx, ha, rfl⟩
      obtain ⟨hbelow, -⟩ := h i x a hx ha
      exact hbelow
    · rintro i j n ⟨x, a, hx, ha, rfl⟩ ⟨y, b, hy, hb, hba⟩
      obtain ⟨-, hdistinct⟩ := h i x a hx ha
      exact hdistinct j y b hy hb hba.symm
  · rintro ⟨hcounter, hbelow, hdistinct⟩
    exact ⟨hcounter, fun i x a hx ha => ⟨hbelow i _ ⟨x, a, hx, ha, rfl⟩,
      fun j y b hy hb hab => hdistinct i j _ ⟨x, a, hx, ha, rfl⟩ ⟨y, b, hy, hb, hab.symm⟩⟩⟩

theorem SequenceInv.counter_le {s : State} (hs : SequenceInv s) : s.pool.nextSeq ≤ 4294967295 := by
  obtain ⟨hcounter, -⟩ := hs
  exact hcounter

/-! ### Sequences kept -/

/-- The counter stands, and a timer ARMED in `t` has in `t` the sequence it had in `s`. -/
structure SequencesKept (s t : State) : Prop where
  counter : t.pool.nextSeq = s.pool.nextSeq
  armed : ∀ i n, sequenceAt t i = some n → sequenceAt s i = some n

theorem SequencesKept.refl (s : State) : SequencesKept s s := ⟨rfl, fun _ _ => id⟩

theorem SequencesKept.trans {s t u : State} (h : SequencesKept s t) (k : SequencesKept t u) : SequencesKept s u :=
  ⟨k.counter.trans h.counter, fun i n hn => h.armed i n (k.armed i n hn)⟩

/-- Distinct sequences that are kept stay distinct. -/
theorem SequenceInv.of_kept {s t : State} (hs : SequenceInv s) (h : SequencesKept s t) : SequenceInv t := by
  rw [sequenceInv_iff] at hs ⊢
  obtain ⟨hcounter, hbelow, hdistinct⟩ := hs
  rw [h.counter]
  exact ⟨hcounter, fun i n hi => hbelow i n (h.armed i n hi),
    fun i j n hi hj => hdistinct i j n (h.armed i n hi) (h.armed j n hj)⟩

/-- With no timer ARMED there is nothing to be distinct. -/
theorem SequenceInv.of_none {s : State} (hcounter : s.pool.nextSeq ≤ 4294967295) (h : ∀ i, s.timer i = none) :
    SequenceInv s := by
  have idle : ∀ i, sequenceAt s i = none := fun i => by rw [sequenceAt, h, Option.bind_none]
  rw [sequenceInv_iff]
  simp [hcounter, idle]

/-- What leaves the pool keeps the sequences. -/
theorem SequencesKept.of_other {ps : List Part} {s t : State} (hf : OnlyChanges ps s t) (hp : .pool ∉ ps) :
    SequencesKept s t := by
  obtain ⟨-, -, hpool, -⟩ := hf
  have same : ∀ i, sequenceAt t i = sequenceAt s i := fun i =>
    sequenceAt_congr (by rw [State.timer, State.timer, hpool hp])
  exact ⟨by rw [hpool hp], fun i n hn => same i ▸ hn⟩

theorem SequencesKept.trans_other {ps : List Part} {s t u : State} (h : SequencesKept s t) (hf : OnlyChanges ps t u)
    (hp : .pool ∉ ps) : SequencesKept s u := h.trans (.of_other hf hp)

/-- The record `y` is ARMED only with the sequence that `x` has. -/
def Timer.KeepsSequence (x y : Timer) : Prop := ∀ b, y.armed = some b → ∃ a, x.armed = some a ∧ a.seq = b.seq

theorem Timer.KeepsSequence.of_idle {x y : Timer} (h : y.armed = none) : x.KeepsSequence y :=
  fun b hb => by cases h.symm.trans hb

theorem Timer.KeepsSequence.refl (x : Timer) : x.KeepsSequence x := fun b hb => ⟨b, hb, rfl⟩

/-- Every record of `t` comes from one of `s` in the same slot. -/
theorem SequencesKept.of_records {s t : State} (hcounter : t.pool.nextSeq = s.pool.nextSeq)
    (h : ∀ i y, t.timer i = some y → ∃ x, s.timer i = some x ∧ x.KeepsSequence y) : SequencesKept s t := by
  refine ⟨hcounter, fun i n hn => ?_⟩
  obtain ⟨y, b, hy, hb, hbn⟩ := sequenceAt_eq_some.1 hn
  obtain ⟨x, hx, hxy⟩ := h i y hy
  obtain ⟨a, ha, hab⟩ := hxy b hb
  exact sequenceAt_eq_some.2 ⟨x, a, hx, ha, hab.trans hbn⟩

/-- An operation on every record that keeps its sequence. -/
theorem SequencesKept.of_map {s t : State} {f : Timer → Timer} (hcounter : t.pool.nextSeq = s.pool.nextSeq)
    (hf : ∀ x : Timer, x.KeepsSequence (f x)) (h : ∀ i, t.timer i = (s.timer i).map f) : SequencesKept s t :=
  .of_records hcounter fun i y hy => by
    rw [h, Option.map_eq_some_iff] at hy
    obtain ⟨x, hx, rfl⟩ := hy
    exact ⟨x, hx, hf x⟩

/-- A slot left without an ARMED timer. -/
theorem setTimer_idle_kept {i : Slot} {x : Option Timer} (s : State) (hx : ∀ y, x = some y → y.armed = none) :
    SequencesKept s (s.setTimer i x) := by
  refine ⟨rfl, fun j n hn => ?_⟩
  by_cases hj : j = i
  · obtain ⟨y, b, hy, hb, -⟩ := sequenceAt_eq_some.1 hn
    rw [hj, State.setTimer_timer_self] at hy
    cases (hx y hy).symm.trans hb
  · have same : sequenceAt (s.setTimer i x) j = sequenceAt s j :=
      sequenceAt_congr (by rw [State.setTimer_timer, if_neg hj])
    exact same ▸ hn

/-! ### Expiries -/

/-- A PERIODIC timer keeps its sequence across its expiries (R63, R71). -/
theorem settle_keepsSequence {t : Timer} {a : Arming} (now : Nat) (ha : t.armed = some a) :
    t.KeepsSequence (t.settle a now) := by
  unfold Timer.settle
  split
  · exact .of_idle rfl
  · dsimp only
    split
    · exact .of_idle rfl
    · exact fun b hb => ⟨a, ha, by rw [← Option.some.inj hb]⟩

theorem movedBy_keepsSequence (d : Int) (t : Timer) : t.KeepsSequence (movedBy d t) := by
  unfold movedBy
  split
  · intro b hb
    obtain ⟨a, ha, rfl⟩ := Option.map_eq_some_iff.1 hb
    exact ⟨a, ha, rfl⟩
  · exact .refl t

/-- The expiry of a slot that is not ARMED changes nothing (R43). -/
theorem expire_of_idle {i : Slot} {late : Bool} {now : Nat} {s : State} (h : sequenceAt s i = none) :
    expire i late now s = s := by
  unfold expire
  split
  · rfl
  · next t ht =>
    rw [sequenceAt_of_timer ht, Option.map_eq_none_iff] at h
    simp only [h]

theorem expire_kept (i : Slot) (late : Bool) (now : Nat) (s : State) : SequencesKept s (expire i late now s) := by
  cases h : sequenceAt s i with
  | none => exact (expire_of_idle h).symm ▸ .refl s
  | some n =>
    obtain ⟨x, a, hx, ha, -⟩ := sequenceAt_eq_some.1 h
    refine .of_records (expire_nextSeq late i) fun j y hy => ?_
    rw [expire_timer i late now s hx ha] at hy
    split at hy
    · next hj =>
      cases hy
      exact ⟨x, hj ▸ hx, settle_keepsSequence (t := { x with fire := min 65535 (x.fire + 1) }) now ha⟩
    · exact ⟨y, hy, .refl y⟩

theorem expireReached_kept (n : Nat) (late : Bool) (now : Nat) (s : State) :
    SequencesKept s (expireReached n late now s) := by
  induction n generalizing s with
  | zero => exact .refl s
  | succ n ih =>
    unfold expireReached
    split
    · split
      · exact (expire_kept _ late now s).trans (ih _)
      · exact .refl s
    · exact .refl s

theorem leftoverMoved_kept (d : Int) (before : Nat) (s : State) : SequencesKept s (leftoverMoved d before s) :=
  (expireReached_kept 48 false before s).trans
    (.of_map (moveElapsed_nextSeq _ _) (movedBy_keepsSequence d) (moveElapsed_add_timer d _))

theorem stepRecognition_kept (d : Int) (before : Nat) (s : State) : SequencesKept s (stepRecognition d before s) := by
  by_cases hd : 0 < d
  · rw [stepRecognition_of_pos hd]
    exact (leftoverMoved_kept d before s).trans (expireReached_kept _ _ _ _)
  · rw [stepRecognition_of_not_pos hd]
    exact leftoverMoved_kept d before s

/-! ### The count -/

theorem moveCount_kept (m : Nat) (s : State) : SequencesKept s (moveCount m s) := by
  rcases Nat.lt_or_ge (fineCount s + m) countLimit with h | h
  · rw [moveCount_of_lt _ _ h]
    exact .of_other (reachCount_frame _ s) (by simp)
  · rw [moveCount_of_le _ _ h]
    exact .of_map (holdCount_nextSeq _ s) (movedBy_keepsSequence _) (holdCount_timer _ s)

theorem takeAdvance_kept (m : Nat) (levels : Quad Level) (s : State) : SequencesKept s (takeAdvance m levels s) :=
  (moveCount_kept m s).trans_other (takeAdvance_rest_frame m levels s) (by simp)

theorem firstSet_kept (value : Nat) (s : State) : SequencesKept s (firstSet value s) :=
  .of_map (firstSet_nextSeq value s) (movedBy_keepsSequence _) (firstSet_timer value s)

theorem applyStep_kept (d : Int) (clearResidue : Bool) (s : State) : SequencesKept s (applyStep d clearResidue s) := by
  have taken : SequencesKept s (stepTaken d clearResidue s) := .of_other (stepTaken_frame d clearResidue s) (by simp)
  by_cases hd : d = 0
  · subst hd
    exact taken
  · rw [applyStep_of_ne _ _ _ hd]
    exact (taken.trans_other (postAll_frame _ _) (by simp)).trans (stepRecognition_kept _ _ _)

theorem setTimeAt_kept (v : TimeArg) (s : State) : SequencesKept s (setTimeAt v s).1 := by
  unfold setTimeAt
  split
  · exact .refl s
  · split
    · exact firstSet_kept _ s
    · exact applyStep_kept _ _ s

theorem stepAt_kept (v : StepArg) (s : State) : SequencesKept s (stepAt v s).1 := by
  unfold stepAt
  split
  · exact .refl s
  · split
    · exact .refl s
    · dsimp only
      split
      · exact applyStep_kept _ _ s
      · exact .refl s

/-! ### The supervisor -/

theorem failover_kept (m : Nat) (levels : Quad Level) (s : State) : SequencesKept s (failover m levels s) :=
  ((takeAdvance_kept m levels s).trans_other (withSup_frame _ _) (by simp)).trans_other (postAll_frame _ _) (by simp)

theorem loseSource_kept (w : Watched) (levels : Quad Level) (s : State) : SequencesKept s (loseSource w levels s) := by
  have failed : SequencesKept s (s.setWatched w .failed) := .of_other (setWatched_frame w _ s) (by simp)
  unfold loseSource
  split
  · refine SequencesKept.trans_other ?_ (endWaitIf_frame _ _ _) (by simp)
    split
    · exact failed.trans (failover_kept _ _ _)
    · split
      · exact failed.trans_other (withSup_frame _ _) (by simp)
      · exact failed
  · exact .refl s

theorem storeBridge_kept (before : State) (levels : Quad Level) (s : State) :
    SequencesKept s (storeBridge before levels s) := by
  unfold storeBridge
  split
  · exact (SequencesKept.of_other (withSup_frame _ s) (by simp)).trans (takeAdvance_kept _ _ _)
  · exact .refl s

theorem setSourcesAt_kept (h : HostId) (v : ListArg) (levels : Quad Level) (s : State) :
    SequencesKept s (setSourcesAt h v levels s).1 :=
  setSourcesAt_keeps (.refl s) (fun l => .of_other (storeList_frame l s) (by simp))
    (fun u hu => hu.trans (storeBridge_kept s levels u))
    (fun x u hu => hu.trans_other (selectAtStore_frame s x u) (by simp))
    (fun u x hu => hu.trans_other (withSup_frame x u) (by simp))

/-! ### The commands of the pool, and the teardown -/

theorem allocAt_kept (h : HostId) (s : State) : SequencesKept s (allocAt h s).1 := by
  unfold allocAt
  split
  · exact .refl s
  · split
    · exact .refl s
    · exact setTimer_idle_kept s fun y hy => by cases hy; rfl

theorem freeAt_kept (h : HostId) (slot : Byte) (s : State) : SequencesKept s (freeAt h slot s).1 := by
  unfold freeAt
  split
  · exact .refl s
  · exact (SequencesKept.of_other (removeTimerNotice_frame _ _ s) (by simp)).trans
      (setTimer_idle_kept _ fun y hy => by cases hy)

theorem cancelAt_kept (h : HostId) (slot : Byte) (s : State) : SequencesKept s (cancelAt h slot s).1 := by
  unfold cancelAt
  split
  · exact .refl s
  · split
    · exact setTimer_idle_kept s fun y hy => by cases hy; rfl
    · split <;> exact .refl s

theorem teardown_kept (h : HostId) (s : State) : SequencesKept s (teardown h s) := by
  refine .of_records (by rw [teardown_pool]; rfl) fun i y hy => ?_
  rw [teardown_timer, Option.filter_eq_some_iff] at hy
  obtain ⟨hx, -⟩ := hy
  exact ⟨y, hx, .refl y⟩

/-! ### The arming (R63) -/

theorem sequenceAt_of_reseq {s t : State} {j : Slot} {f : Nat → Nat}
    (h : t.timer j = (s.timer j).map (Timer.reseq f)) : sequenceAt t j = (sequenceAt s j).map f := by
  cases hx : s.timer j with
  | none => simp [sequenceAt, h, hx]
  | some x => simp [sequenceAt, h, hx, Timer.reseq, Function.comp_def]

/-- What taking the sequence `n` for slot `i` does to the sequences of the other slots: a map that keeps their order
below `n`. -/
theorem SequenceTaken.others {i : Slot} {n : Nat} {s t : State} (hs : SequenceInv s) (ht : SequenceTaken i n s t) :
    ∃ f : Nat → Nat, (∀ j, j ≠ i → sequenceAt t j = (sequenceAt s j).map f) ∧
      ∀ j m, j ≠ i → sequenceAt s j = some m → f m < n ∧
        ∀ k l, k ≠ i → sequenceAt s k = some l → m < l → f m < f l := by
  obtain ⟨hcounter, hbelow, -⟩ := (sequenceInv_iff s).1 hs
  obtain ⟨-, hlow, hfull⟩ := ht
  rcases Nat.lt_or_ge s.pool.nextSeq 4294967295 with hlt | hge
  · obtain ⟨rfl, hsame⟩ := hlow hlt
    exact ⟨id, fun j hj => by rw [sequenceAt_congr (hsame j hj), Option.map_id, id],
      fun j m _ hm => ⟨hbelow j m hm, fun _ _ _ _ => id⟩⟩
  · obtain ⟨-, f, hrenumbered, horder⟩ := hfull (Nat.le_antisymm hcounter hge)
    refine ⟨f, fun j hj => sequenceAt_of_reseq (hrenumbered j hj), fun j m hj hm => ?_⟩
    obtain ⟨x, a, hx, ha, rfl⟩ := sequenceAt_eq_some.1 hm
    obtain ⟨hlast, hkeeps⟩ := horder j x a hj hx ha
    refine ⟨hlast, fun k l hk hl hml => ?_⟩
    obtain ⟨y, b, hy, hb, rfl⟩ := sequenceAt_eq_some.1 hl
    exact hkeeps k y b hk hy hb hml

/-- The counter after a sequence is taken is in its range (R63). -/
theorem SequenceTaken.counter_le {i : Slot} {n : Nat} {s t : State} (hs : SequenceInv s) (ht : SequenceTaken i n s t) :
    t.pool.nextSeq ≤ 4294967295 := by
  have hcounter := hs.counter_le
  obtain ⟨hnext, hlow, hfull⟩ := ht
  rcases Nat.lt_or_ge s.pool.nextSeq 4294967295 with hlt | hge
  · obtain ⟨hn, -⟩ := hlow hlt
    omega
  · obtain ⟨hn, -⟩ := hfull (Nat.le_antisymm hcounter hge)
    omega

/-- Slot `i` ARMED with the sequence taken for it: the other sequences are below it, and still distinct. -/
theorem SequenceInv.of_taken {i : Slot} {n : Nat} {s t : State} (hs : SequenceInv s) (ht : SequenceTaken i n s t)
    (hi : sequenceAt t i = some n) : SequenceInv t := by
  obtain ⟨f, hf, horder⟩ := ht.others hs
  have hcounter := ht.counter_le hs
  obtain ⟨hnext, -⟩ := ht
  obtain ⟨-, -, hdistinct⟩ := (sequenceInv_iff s).1 hs
  have other : ∀ j m, j ≠ i → sequenceAt t j = some m → ∃ l, sequenceAt s j = some l ∧ f l = m ∧ m < n := by
    intro j m hj hm
    rw [hf j hj, Option.map_eq_some_iff] at hm
    obtain ⟨l, hl, rfl⟩ := hm
    obtain ⟨hlast, -⟩ := horder j l hj hl
    exact ⟨l, hl, rfl, hlast⟩
  have own : ∀ m, sequenceAt t i = some m → m = n := fun m hm => Option.some.inj (hm.symm.trans hi)
  refine (sequenceInv_iff t).2 ⟨hcounter, fun j m hm => ?_, fun j k m hj hk => ?_⟩
  · by_cases hji : j = i
    · have := own m (hji ▸ hm)
      omega
    · obtain ⟨-, -, -, hlt⟩ := other j m hji hm
      omega
  · by_cases hji : j = i <;> by_cases hki : k = i
    · rw [hji, hki]
    · have := own m (hji ▸ hj)
      obtain ⟨-, -, -, hlt⟩ := other k m hki hk
      omega
    · have := own m (hki ▸ hk)
      obtain ⟨-, -, -, hlt⟩ := other j m hji hj
      omega
    · obtain ⟨l, hl, hlm, -⟩ := other j m hji hj
      obtain ⟨l', hl', hlm', -⟩ := other k m hki hk
      rcases Nat.lt_trichotomy l l' with hlt | rfl | hlt
      · obtain ⟨-, hkeeps⟩ := horder j l hji hl
        have := hkeeps k l' hki hl' hlt
        omega
      · exact hdistinct j k l hl hl'
      · obtain ⟨-, hkeeps⟩ := horder k l' hki hl'
        have := hkeeps j l hji hl hlt
        omega

theorem armPlaced_sequenceInv {h : HostId} {i : Slot} {old : Timer} {x : ArmSettings} {first : Int} {skipped : Nat}
    {s : State} (hs : SequenceInv s) : SequenceInv (armPlaced h i old x first skipped s) :=
  hs.of_taken (armPlaced_sequenceTaken hs.counter_le) (sequenceAt_of_timer armPlaced_timer_self)

theorem armAt_sequenceInv {h : HostId} {v : ArmArg} {s : State} (hs : SequenceInv s) : SequenceInv (armAt h v s).1 := by
  rcases armAt_cases h v s with e | ⟨i, old, x, first, skipped, -, -, -, -, e⟩
  · exact e.symm ▸ hs
  · rw [e]
    by_cases hf : first ≤ s.count.time
    · rw [armTimer_of_reached _ _ _ _ _ _ _ hf]
      exact (armPlaced_sequenceInv hs).of_kept (expire_kept _ _ _ _)
    · rw [armTimer_of_later _ _ _ _ _ _ _ hf]
      exact armPlaced_sequenceInv hs

/-! ### Every step -/

theorem requestsKeep_sequenceInv : RequestsKeep SequenceInv := by
  intro h levels r s _ _ _ hs
  have other : ∀ {ps : List Part} {t : State}, OnlyChanges ps s t → .pool ∉ ps → SequenceInv t :=
    fun hf hp => hs.of_kept (.of_other hf hp)
  cases r with
  | attach => exact other (attachAt_frame h s) (by simp)
  | detach => exact hs.of_kept (teardown_kept h s)
  | status => exact hs
  | echo data => exact hs
  | sessions => exact hs
  | readTime => exact hs
  | timeStatus => exact hs
  | setTime v => exact hs.of_kept (setTimeAt_kept v s)
  | step v => exact hs.of_kept (stepAt_kept v s)
  | slew v => exact other (slewAt_frame v s) (by simp)
  | setTrim source trim => exact other (setTrimAt_frame source trim s) (by simp)
  | setSources v => exact hs.of_kept (setSourcesAt_kept h v levels s)
  | sourceStatus => exact hs
  | claim lease => exact other (claimAt_frame h lease s) (by simp)
  | release => exact other (releaseAt_frame h s) (by simp)
  | withdraw => exact other (withdrawAt_frame h s) (by simp)
  | authStatus => exact hs
  | alloc => exact hs.of_kept (allocAt_kept h s)
  | free slot => exact hs.of_kept (freeAt_kept h slot s)
  | arm v => exact armAt_sequenceInv hs
  | cancel slot => exact hs.of_kept (cancelAt_kept h slot s)
  | timerStatus slot => exact (timerStatusAt_state h slot s).symm ▸ hs
  | take => exact other (takeAt_frame h s) (by simp)
  | ack => exact other (ackAt_frame h s) (by simp)
  | peek => exact other (peekAt_frame h s) (by simp)
  | setThreshold v => exact other (setThresholdAt_frame h v s) (by simp)
  | bindPin pin idle width => exact other (bindPinAt_frame h pin idle width s) (by simp)
  | unbindPin pin => exact other (unbindPinAt_frame h pin s) (by simp)
  | drivePin pin action => exact other (drivePinAt_frame h pin action s) (by simp)
  | pinStatus pin => exact (pinStatusAt_state pin s).symm ▸ hs
  | setEdges input selection => exact other (setEdgesAt_frame input selection s) (by simp)
  | subscribe input cls => exact other (subscribeAt_frame h input cls s) (by simp)
  | unsubscribe input => exact other (unsubscribeAt_frame h input s) (by simp)
  | readCapture which => exact other (readCaptureAt_frame h which s) (by simp)

/-- A reset takes the counter to 0 and frees every slot (R60, R63, R84). -/
theorem mainDomainCleared_sequenceInv (s : State) : SequenceInv (mainDomainCleared s) :=
  .of_none (Nat.zero_le _) (mainDomainCleared_timer s)

theorem operationsKeep_sequenceInv : OperationsKeep SequenceInv where
  sessions s h x _ hs := hs.of_kept (.of_other (setPort_frame h x s) (by simp))
  pending _ _ hs := hs
  power s x hs := hs.of_kept (.of_other (withPower_frame x s) (by simp))
  retained _ _ hs := hs
  requests := requestsKeep_sequenceInv
  advance levels s hs := hs.of_kept
    ((SequencesKept.of_other (slewApplied_frame s) (by simp)).trans (takeAdvance_kept _ levels _))
  expireHead s hs := hs.of_kept (expireReached_kept _ _ _ s)
  endPulse p s hs := hs.of_kept (.of_other (endPulse_frame p s) (by simp))
  takeCapture s hs := hs.of_kept (.of_other (takeCapture_frame s) (by simp))
  expireLease s hs := hs.of_kept (.of_other (expireLease_frame s) (by simp))
  superviseCycle s hs := hs.of_kept (.of_other (superviseCycle_frame s) (by simp))
  setWatched w x s hs := hs.of_kept (.of_other (setWatched_frame w x s) (by simp))
  loseSource w levels s hs := hs.of_kept (loseSource_kept w levels s)
  qualify w s hs := hs.of_kept (.of_other (qualify_frame w s) (by simp))
  endHoldOff w s hs := hs.of_kept (.of_other (endHoldOff_frame w s) (by simp))
  timeOutWait s hs := hs.of_kept (.of_other (timeOutWait_frame s) (by simp))
  teardown h s hs := hs.of_kept (teardown_kept h s)
  mainDomainCleared s _ := mainDomainCleared_sequenceInv s
  mainReset s _ := .of_none (Nat.zero_le _) (mainDomainCleared_timer s)

end Sys2Proof.Machine

namespace Sys2Proof.Proofs

open Sys2Proof.Machine

/-- Settles O8: every operation keeps the counter and the sequences, or takes a sequence above the others, or resets. -/
theorem stepKeepsSequences : Obligations.StepKeepsSequences := by
  unfold Obligations.StepKeepsSequences
  exact fun _ _ hs h => operationsKeep_sequenceInv.step hs h

end Sys2Proof.Proofs
end

section
/-! One notice box: the cases of a post, and what keeps a queue bounded, in order and free of duplicates (R87 to R92). -/

namespace Sys2Proof.Machine

/-! ### The cases of a post (R89) -/

theorem sameKey_iff {n y : Notice} : sameKey n y = true ↔ n.kind = y.kind ∧ n.origin = y.origin := by
  rw [sameKey, decide_eq_true_iff]

/-- Whether the queue of `x` holds a notice that `n` merges into (R89). -/
def NoticeBox.holdsKey (n : Notice) (x : NoticeBox) : Prop := ∃ y ∈ x.queue, sameKey n y = true

theorem NoticeBox.not_holdsKey {n : Notice} {x : NoticeBox} :
    ¬x.holdsKey n ↔ ∀ y ∈ x.queue, ¬(n.kind = y.kind ∧ n.origin = y.origin) := by
  simp only [holdsKey, not_exists, not_and, ← sameKey_iff]

section PostCases

variable {n : Notice} {x : NoticeBox}

theorem NoticeBox.post_of_holdsKey (hn : x.holdsKey n) : x.post n =
    { x with queue := x.queue.map fun y => if sameKey n y then mergeNotice y n else y } := by
  rw [NoticeBox.post, if_pos (List.any_eq_true.2 hn)]

theorem NoticeBox.post_of_room (hn : ¬x.holdsKey n) (hl : x.queue.length < 16) :
    x.post n = { x with queue := insertNotice n x.queue } := by
  rw [NoticeBox.post, if_neg (fun c => hn (List.any_eq_true.1 c)), if_pos (show x.queue.length < queueLimit from hl)]

/-- A queue that is full gives up its last notice, or the new one is discarded (R92). -/
theorem NoticeBox.post_of_full {q : List Notice} {y : Notice} (hn : ¬x.holdsKey n) (hl : x.queue.length = 16)
    (hq : x.queue = q ++ [y]) : x.post n = { x with
      queue := if y.cls < n.cls then insertNotice n q else x.queue, drops := min 65535 (x.drops + 1) } := by
  have hfull : ¬x.queue.length < queueLimit := fun c => by rw [hl] at c; exact absurd c (by decide)
  rw [NoticeBox.post, if_neg (fun c => hn (List.any_eq_true.1 c)), if_neg hfull, hq]
  by_cases hy : y.cls < n.cls
  · simp [hy, saturate, count16]
  · simp [hy, saturate, count16]

end PostCases

/-! ### The conditions of one box (R87, R88) -/

/-- What `QueueInv` asks of one box. -/
structure BoxOk (x : NoticeBox) : Prop where
  bounded : x.queue.length ≤ 16
  ordered : x.queue.Pairwise fun y z => z.cls ≤ y.cls
  distinct : x.queue.Pairwise fun y z => ¬(y.kind = z.kind ∧ y.origin = z.origin)
  threshold : x.threshold ≤ 5
  drops : x.drops ≤ 65535

theorem queueInv_iff (s : State) :
    QueueInv s ↔ ∀ h, BoxOk (s.box h) ∧ (s.attached h = false → s.box h = .initial) := by
  refine forall_congr' fun h => ⟨?_, ?_⟩
  · rintro ⟨hbound, horder, hdistinct, hthreshold, hdrops, hdetached⟩
    exact ⟨⟨hbound, horder, hdistinct, hthreshold, hdrops⟩, hdetached⟩
  · rintro ⟨hx, hdetached⟩
    exact ⟨hx.bounded, hx.ordered, hx.distinct, hx.threshold, hx.drops, hdetached⟩

theorem QueueInv.boxOk {s : State} (hs : QueueInv s) (h : HostId) : BoxOk (s.box h) := ((queueInv_iff s).1 hs h).1

theorem QueueInv.detached {s : State} (hs : QueueInv s) {h : HostId} (hd : s.attached h = false) :
    s.box h = .initial := by
  obtain ⟨-, hinitial⟩ := (queueInv_iff s).1 hs h
  exact hinitial hd

theorem boxOk_initial : BoxOk .initial := ⟨Nat.zero_le _, .nil, .nil, le_rfl, Nat.zero_le _⟩

/-- Notices removed, and nothing else: the rest keeps its order (R94). -/
theorem BoxOk.of_sublist {x y : NoticeBox} (hx : BoxOk x) (hq : y.queue.Sublist x.queue) (ht : y.threshold ≤ 5)
    (hd : y.drops ≤ 65535) : BoxOk y :=
  ⟨hq.length_le.trans hx.bounded, hx.ordered.sublist hq, hx.distinct.sublist hq, ht, hd⟩

/-! ### A post keeps them (R90 to R92) -/

theorem insertNotice_perm (n : Notice) (q : List Notice) : (insertNotice n q).Perm (n :: q) := by
  have hq := List.takeWhile_append_dropWhile (p := fun y : Notice => decide (n.cls ≤ y.cls)) (l := q)
  conv_rhs => rw [← hq]
  exact List.perm_middle

/-- A notice placed among notices of other kinds or origins. -/
theorem insertNotice_distinct {n : Notice} {q : List Notice}
    (hq : q.Pairwise fun y z => ¬(y.kind = z.kind ∧ y.origin = z.origin))
    (hn : ∀ y ∈ q, ¬(n.kind = y.kind ∧ n.origin = y.origin)) :
    (insertNotice n q).Pairwise fun y z => ¬(y.kind = z.kind ∧ y.origin = z.origin) := by
  rw [(insertNotice_perm n q).pairwise_iff fun h ⟨hk, ho⟩ => h ⟨hk.symm, ho.symm⟩]
  exact List.pairwise_cons.2 ⟨hn, hq⟩

theorem BoxOk.merge {x : NoticeBox} (hx : BoxOk x) (n : Notice) :
    BoxOk { x with queue := x.queue.map fun y => if sameKey n y then mergeNotice y n else y } := by
  have hcls : ∀ y, (if sameKey n y then mergeNotice y n else y).cls = y.cls := fun y => by split <;> rfl
  have hkind : ∀ y, (if sameKey n y then mergeNotice y n else y).kind = y.kind := fun y => by split <;> rfl
  have horigin : ∀ y, (if sameKey n y then mergeNotice y n else y).origin = y.origin := fun y => by split <;> rfl
  refine ⟨by simpa using hx.bounded, List.pairwise_map.2 ?_, List.pairwise_map.2 ?_, hx.threshold, hx.drops⟩
  · simpa only [hcls] using hx.ordered
  · simpa only [hkind, horigin] using hx.distinct

theorem BoxOk.insert {x : NoticeBox} (hx : BoxOk x) {n : Notice} (hn : ¬x.holdsKey n) (hl : x.queue.length < 16) :
    BoxOk { x with queue := insertNotice n x.queue } :=
  ⟨by simpa using hl, insertNotice_ordered hx.ordered, insertNotice_distinct hx.distinct (NoticeBox.not_holdsKey.1 hn),
    hx.threshold, hx.drops⟩

/-- Posting keeps a box in order: a merge keeps every class and key, an insertion finds its place among other keys, and
an eviction makes room for one (R88). -/
theorem BoxOk.post {x : NoticeBox} (hx : BoxOk x) (n : Notice) : BoxOk (x.post n) := by
  by_cases hn : x.holdsKey n
  · rw [NoticeBox.post_of_holdsKey hn]
    exact hx.merge n
  · rcases Nat.lt_or_eq_of_le hx.bounded with hl | hl
    · rw [NoticeBox.post_of_room hn hl]
      exact hx.insert hn hl
    · obtain ⟨q, y, hq⟩ := (List.eq_nil_or_concat' x.queue).resolve_left (fun c : x.queue = [] => by simp [c] at hl)
      have hsub : q.Sublist x.queue := hq ▸ List.sublist_append_left q [y]
      have hlen : q.length < 16 := by simp [hq] at hl; omega
      have evicted : BoxOk { x with queue := q } := hx.of_sublist hsub hx.threshold hx.drops
      have hn' : ¬({ x with queue := q } : NoticeBox).holdsKey n := fun ⟨z, hz, hk⟩ => hn ⟨z, hsub.subset hz, hk⟩
      rw [NoticeBox.post_of_full hn hl hq]
      split
      · exact (evicted.insert hn' hlen).of_sublist (.refl _) hx.threshold (Nat.min_le_left _ _)
      · exact hx.of_sublist (.refl _) hx.threshold (Nat.min_le_left _ _)

end Sys2Proof.Machine
end

section
/-! The notice queues: what the blocks do to a queue is to post to it, and the commands of its host remove from it, so
that every step keeps it bounded, in order and free of duplicates (R87 to R94, R103). -/

namespace Sys2Proof.Machine

/-! ### Postings and nothing else -/

/-- The sessions stand, the boxes of attached hosts have been posted to, and those of detached hosts stand (R89). -/
structure OnlyPosts (s t : State) : Prop where
  attached : ∀ g, t.attached g = s.attached g
  box : ∀ g, ∃ l : List Notice, t.box g = l.foldl (fun x n => x.post n) (s.box g)
  detached : ∀ g, s.attached g = false → t.box g = s.box g

theorem OnlyPosts.of_box {s t : State} (hatt : ∀ g, t.attached g = s.attached g) (hbox : ∀ g, t.box g = s.box g) :
    OnlyPosts s t := ⟨hatt, fun g => ⟨[], hbox g⟩, fun g _ => hbox g⟩

theorem OnlyPosts.refl (s : State) : OnlyPosts s s := .of_box (fun _ => rfl) fun _ => rfl

theorem OnlyPosts.trans {s t u : State} (h : OnlyPosts s t) (k : OnlyPosts t u) : OnlyPosts s u := by
  refine ⟨fun g => (k.attached g).trans (h.attached g), fun g => ?_, fun g hg => ?_⟩
  · obtain ⟨l, hl⟩ := h.box g
    obtain ⟨m, hm⟩ := k.box g
    exact ⟨l ++ m, by rw [hm, hl, List.foldl_append]⟩
  · exact (k.detached g ((h.attached g).trans hg)).trans (h.detached g hg)

/-- What leaves the notices posts nothing. -/
theorem OnlyPosts.of_frame {ps : List Part} {s t : State} (hf : OnlyChanges ps s t) (hps : .notices ∉ ps)
    (hatt : ∀ g, t.attached g = s.attached g) : OnlyPosts s t := by
  obtain ⟨-, -, -, hnotices, -⟩ := hf
  exact .of_box hatt fun g => by rw [State.box, State.box, hnotices hps]

/-- The same for what leaves the ports too. -/
theorem OnlyPosts.of_other {ps : List Part} {s t : State} (hf : OnlyChanges ps s t)
    (hps : [.notices, .ports].Disjoint ps) : OnlyPosts s t :=
  .of_frame hf (hps (by simp)) (hf.attached (hps (by simp)))

theorem OnlyPosts.trans_other {ps : List Part} {s t u : State} (h : OnlyPosts s t) (hf : OnlyChanges ps t u)
    (hps : [.notices, .ports].Disjoint ps) : OnlyPosts s u := h.trans (.of_other hf hps)

theorem post_onlyPosts (h : HostId) (n : Notice) (s : State) : OnlyPosts s (post h n s) := by
  refine ⟨post_attached h n s, fun g => ?_, fun g hg => ?_⟩
  · rw [post_box]
    split
    · next e =>
      obtain ⟨rfl, -⟩ := e
      exact ⟨[n], rfl⟩
    · exact ⟨[], rfl⟩
  · rw [post_box, if_neg fun ⟨e, ha⟩ => by rw [← e, hg] at ha; cases ha]

theorem postAll_onlyPosts (n : Notice) (s : State) : OnlyPosts s (postAll n s) :=
  ((post_onlyPosts .a n s).trans (post_onlyPosts .b n _)).trans (post_onlyPosts .c n _)

/-- Posting keeps the queues (R88). -/
theorem QueueInv.of_posts {s t : State} (hs : QueueInv s) (h : OnlyPosts s t) : QueueInv t := by
  have posted : ∀ (l : List Notice) (x : NoticeBox), BoxOk x → BoxOk (l.foldl (fun x n => x.post n) x) := by
    intro l
    induction l with
    | nil => exact fun _ => id
    | cons n l ih => exact fun x hx => ih _ (hx.post n)
  refine (queueInv_iff t).2 fun g => ⟨?_, fun hd => ?_⟩
  · obtain ⟨l, hl⟩ := h.box g
    exact hl ▸ posted l _ (hs.boxOk g)
  · have hd' : s.attached g = false := (h.attached g).symm.trans hd
    rw [h.detached g hd', hs.detached hd']

/-! ### Expiries and captures (R68, R140) -/

theorem expire_posts (i : Slot) (late : Bool) (now : Nat) (s : State) : OnlyPosts s (expire i late now s) := by
  unfold expire
  split
  · exact .refl s
  · next t _ =>
    split
    · exact .refl s
    · dsimp only
      have acted : OnlyPosts s (match t.action with
          | some u => applyAction u.pin u.action (.slot i) s
          | none => s) := by
        split
        · exact .of_other (applyAction_frame _ _ _ _) (by simp)
        · exact .refl s
      refine OnlyPosts.trans_other ?_ (setTimer_frame _ _ _) (by simp)
      split
      · exact acted.trans (post_onlyPosts _ _ _)
      · exact acted

theorem expireReached_posts (n : Nat) (late : Bool) (now : Nat) (s : State) :
    OnlyPosts s (expireReached n late now s) := by
  induction n generalizing s with
  | zero => exact .refl s
  | succ n ih =>
    unfold expireReached
    split
    · split
      · exact (expire_posts _ _ _ _).trans (ih _)
      · exact .refl s
    · exact .refl s

theorem stepRecognition_posts (d : Int) (before : Nat) (s : State) : OnlyPosts s (stepRecognition d before s) := by
  have moved : OnlyPosts s (leftoverMoved d before s) :=
    (expireReached_posts _ _ _ s).trans_other (moveElapsed_frame _ _) (by simp)
  by_cases hd : 0 < d
  · rw [stepRecognition_of_pos hd]
    exact moved.trans (expireReached_posts _ _ _ _)
  · rw [stepRecognition_of_not_pos hd]
    exact moved

theorem takeCapture_posts (s : State) : OnlyPosts s (takeCapture s) := by
  unfold takeCapture
  split
  · exact .refl s
  · next e rest _ =>
    have seen : OnlyPosts s { s with cap := { s.cap with seen := rest } } := .of_box (fun _ => rfl) fun _ => rfl
    dsimp only
    split
    · exact seen
    · have made := (seen.trans_other (makeRoom_frame _) (by simp)).trans_other (makeRecord_frame e _) (by simp)
      exact foldl_keeps (P := OnlyPosts s) (fun u g hu => hu.trans (post_onlyPosts g _ u)) _ made

/-! ### The count (R14, R15) -/

theorem takeAdvance_posts (m : Nat) (levels : Quad Level) (s : State) : OnlyPosts s (takeAdvance m levels s) :=
  .of_box (fun g => by simp [State.attached, State.port]) fun g => by simp [State.box]

theorem firstSet_posts (value : Nat) (s : State) : OnlyPosts s (firstSet value s) := by
  unfold firstSet
  dsimp only
  refine OnlyPosts.trans ?_ (postAll_onlyPosts _ _)
  exact .of_box (fun _ => rfl) fun _ => rfl

theorem applyStep_posts (d : Int) (clearResidue : Bool) (s : State) : OnlyPosts s (applyStep d clearResidue s) := by
  have taken : OnlyPosts s (stepTaken d clearResidue s) := .of_other (stepTaken_frame d clearResidue s) (by simp)
  by_cases hd : d = 0
  · subst hd
    exact taken
  · rw [applyStep_of_ne _ _ _ hd]
    exact (taken.trans (postAll_onlyPosts _ _)).trans (stepRecognition_posts _ _ _)

theorem setTimeAt_posts (v : TimeArg) (s : State) : OnlyPosts s (setTimeAt v s).1 := by
  unfold setTimeAt
  split
  · exact .refl s
  · split
    · exact firstSet_posts _ s
    · exact applyStep_posts _ _ s

theorem stepAt_posts (v : StepArg) (s : State) : OnlyPosts s (stepAt v s).1 := by
  unfold stepAt
  split
  · exact .refl s
  · split
    · exact .refl s
    · dsimp only
      split
      · exact applyStep_posts _ _ s
      · exact .refl s

theorem armAt_posts (h : HostId) (v : ArmArg) (s : State) : OnlyPosts s (armAt h v s).1 := by
  rcases armAt_cases h v s with e | ⟨i, old, x, first, skipped, -, -, -, -, e⟩
  · exact e.symm ▸ .refl s
  · have placed : OnlyPosts s (armPlaced h i old x first skipped s) := .of_other (armPlaced_frame ..) (by simp)
    rw [e]
    by_cases hf : first ≤ s.count.time
    · rw [armTimer_of_reached _ _ _ _ _ _ _ hf]
      exact placed.trans (expire_posts _ _ _ _)
    · rw [armTimer_of_later _ _ _ _ _ _ _ hf]
      exact placed

/-! ### The supervisor (R31) -/

theorem endWait_posts (r : Option Reply) (s : State) : OnlyPosts s (endWait r s) :=
  .of_frame (endWait_frame r s).1 (by simp) (endWait_attached r s)

theorem endWaitIf_posts (p : Prop) [Decidable p] (r : Option Reply) (s : State) :
    OnlyPosts s (if p then endWait r s else s) := by
  split
  · exact endWait_posts r s
  · exact .refl s

theorem setWatched_posts (w : Watched) (x : SourceState) (s : State) : OnlyPosts s (s.setWatched w x) :=
  .of_other (setWatched_frame w x s) (by simp)

theorem selectWithNotice_posts (x : Source) (cause : Cause) (stamp : Nat) (s : State) :
    OnlyPosts s (selectWithNotice x cause stamp s) := by
  unfold selectWithNotice
  split
  · exact .refl s
  · exact OnlyPosts.trans (.of_other (switchTo_frame x s) (by simp)) (postAll_onlyPosts _ _)

theorem failover_posts (m : Nat) (levels : Quad Level) (s : State) : OnlyPosts s (failover m levels s) :=
  ((takeAdvance_posts m levels s).trans_other (withSup_frame _ _) (by simp)).trans (postAll_onlyPosts _ _)

theorem loseSource_posts (w : Watched) (levels : Quad Level) (s : State) : OnlyPosts s (loseSource w levels s) := by
  have failed : OnlyPosts s (s.setWatched w .failed) := setWatched_posts w _ s
  unfold loseSource
  split
  · refine OnlyPosts.trans ?_ (endWaitIf_posts _ _ _)
    split
    · exact failed.trans (failover_posts _ _ _)
    · split
      · exact failed.trans_other (withSup_frame _ _) (by simp)
      · exact failed
  · exact .refl s

theorem qualify_posts (w : Watched) (s : State) : OnlyPosts s (qualify w s) := by
  have marked : ∀ x, OnlyPosts s (s.setWatched w x) := fun x => setWatched_posts w x s
  unfold qualify
  split
  · split
    · dsimp only
      split
      · exact ((marked _).trans (selectWithNotice_posts _ _ _ _)).trans (endWait_posts _ _)
      · split
        · exact (marked _).trans_other (switchTo_frame _ _) (by simp)
        · exact marked _
    · exact .refl s
  · exact .refl s

theorem endHoldOff_posts (w : Watched) (s : State) : OnlyPosts s (endHoldOff w s) := by
  have marked : ∀ x, OnlyPosts s (s.setWatched w x) := fun x => setWatched_posts w x s
  unfold endHoldOff
  split
  · split
    · dsimp only
      split
      · exact (marked _).trans (selectWithNotice_posts _ _ _ _)
      · exact marked _
    · exact .refl s
  · exact .refl s

theorem timeOutWait_posts (s : State) : OnlyPosts s (timeOutWait s) := by
  unfold timeOutWait
  split
  · split
    · exact endWait_posts _ s
    · exact .refl s
  · exact .refl s

theorem storeBridge_posts (before : State) (levels : Quad Level) (s : State) :
    OnlyPosts s (storeBridge before levels s) := by
  unfold storeBridge
  split
  · exact OnlyPosts.trans (.of_other (withSup_frame _ s) (by simp)) (takeAdvance_posts _ _ _)
  · exact .refl s

theorem selectAtStore_posts (before : State) (x : Source) (s : State) : OnlyPosts s (selectAtStore before x s) := by
  unfold selectAtStore
  dsimp only
  refine OnlyPosts.trans ?_ (postAll_onlyPosts _ _)
  exact .of_box (fun _ => rfl) fun _ => rfl

theorem setSourcesAt_posts (h : HostId) (v : ListArg) (levels : Quad Level) (s : State) :
    OnlyPosts s (setSourcesAt h v levels s).1 :=
  setSourcesAt_keeps (.refl s) (fun l => .of_other (storeList_frame l s) (by simp))
    (fun u hu => hu.trans (storeBridge_posts s levels u)) (fun x u hu => hu.trans (selectAtStore_posts s x u))
    (fun u x hu => hu.trans_other (withSup_frame x u) (by simp))

/-! ### The arbiter (R116) -/

theorem grant_posts (h : HostId) (lease : Nat) (s : State) : OnlyPosts s (grant h lease s) :=
  OnlyPosts.trans (.of_other (withAuth_frame _ s) (by simp)) (post_onlyPosts _ _ _)

theorem grantNext_posts (s : State) : OnlyPosts s (grantNext s) := by
  unfold grantNext
  split
  · exact .of_other (withAuth_frame _ s) (by simp)
  · exact OnlyPosts.trans (.of_other (withAuth_frame _ s) (by simp)) (grant_posts _ _ _)

theorem handOver_posts (old : HostId) (torn : Bool) (s : State) : OnlyPosts s (handOver old torn s) :=
  (grantNext_posts s).trans (endWaitIf_posts _ _ _)

theorem expireLease_posts (s : State) : OnlyPosts s (expireLease s) := by
  unfold expireLease
  split
  · split
    · exact (post_onlyPosts _ _ _).trans (handOver_posts _ _ _)
    · exact .refl s
  · exact .refl s

theorem claimAt_posts (h : HostId) (lease : BitVec 16) (s : State) : OnlyPosts s (claimAt h lease s).1 := by
  unfold claimAt
  split
  · exact .refl s
  · dsimp only
    split
    · exact grant_posts _ _ s
    · split
      · exact .of_other (withAuth_frame _ s) (by simp)
      · split
        · exact .refl s
        · exact OnlyPosts.trans (.of_other (withAuth_frame _ s) (by simp)) (post_onlyPosts _ _ _)

theorem releaseAt_posts (h : HostId) (s : State) : OnlyPosts s (releaseAt h s).1 := by
  unfold releaseAt
  split
  · exact handOver_posts _ _ s
  · exact .refl s

theorem authorityReleased_posts (h : HostId) (s : State) : OnlyPosts s (authorityReleased h s) := by
  have left : OnlyPosts s (leaveWaiting h s) := .of_other (leaveWaiting_frame h s) (by simp)
  unfold authorityReleased
  split
  · exact left.trans (grantNext_posts _)
  · exact left

/-! ### The commands of a queue, and its teardown (R56, R97 to R100, R103) -/

/-- A box written: in order, and at its initial value where the host is detached. -/
theorem setBox_queueInv {h : HostId} {x : NoticeBox} {s : State} (hs : QueueInv s)
    (hd : s.attached h = false → x = .initial) (hx : BoxOk x) : QueueInv (s.setBox h x) := by
  refine (queueInv_iff _).2 fun g => ?_
  rw [State.setBox_box]
  split
  · next e => exact ⟨hx, fun c => hd (e ▸ c)⟩
  · exact ⟨hs.boxOk g, fun c => hs.detached c⟩

section Attached

variable {h : HostId} {s : State} (hs : QueueInv s) (ha : s.attached h = true)

include hs ha

/-- The box of an attached host, with notices removed or its other fields in range. -/
theorem setBox_sublist_queueInv {x : NoticeBox} (hq : x.queue.Sublist (s.box h).queue) (ht : x.threshold ≤ 5)
    (hd : x.drops ≤ 65535) : QueueInv (s.setBox h x) :=
  setBox_queueInv hs (fun c => by rw [ha] at c; cases c) ((hs.boxOk h).of_sublist hq ht hd)

theorem takeAt_queueInv : QueueInv (takeAt h s).1 := by
  unfold takeAt
  dsimp only
  split
  · exact hs
  · exact hs
  · next hq =>
    exact setBox_sublist_queueInv hs ha (hq ▸ List.sublist_cons_self _ _) (hs.boxOk h).threshold (hs.boxOk h).drops

theorem ackAt_queueInv : QueueInv (ackAt h s).1 := by
  unfold ackAt
  dsimp only
  split
  · exact setBox_sublist_queueInv hs ha (.refl _) (hs.boxOk h).threshold (hs.boxOk h).drops
  · exact hs

theorem peekAt_queueInv : QueueInv (peekAt h s).1 :=
  setBox_sublist_queueInv hs ha (.refl _) (hs.boxOk h).threshold (Nat.zero_le _)

theorem setThresholdAt_queueInv (v : Byte) : QueueInv (setThresholdAt h v s).1 := by
  unfold setThresholdAt
  split
  · exact hs
  · next n hn =>
    have hrange : n ≤ 5 := by
      unfold thresholdOf at hn
      split at hn
      · cases hn
        assumption
      · cases hn
    exact setBox_sublist_queueInv hs ha (.refl _) hrange (hs.boxOk h).drops

/-- FREE removes the TIMER notice of the slot (R56, R94). -/
theorem freeAt_queueInv (slot : Byte) : QueueInv (freeAt h slot s).1 := by
  unfold freeAt
  split
  · exact hs
  · next i _ _ =>
    have removed : QueueInv (removeTimerNotice h i s) :=
      setBox_sublist_queueInv hs ha List.filter_sublist (hs.boxOk h).threshold (hs.boxOk h).drops
    exact removed.of_posts (.of_other (setTimer_frame _ _ _) (by simp))

end Attached

/-- ATTACH finds the box at its initial value (R87, R103). -/
theorem attachAt_queueInv {h : HostId} {s : State} (hs : QueueInv s) : QueueInv (attachAt h s).1 := by
  refine (queueInv_iff _).2 fun g => ⟨hs.boxOk g, fun hd => hs.detached ?_⟩
  rw [attachAt, State.setPort_attached] at hd
  split at hd
  · cases hd
  · exact hd

/-- A session ended with its box cleared. -/
theorem sessionEnded_queueInv {h : HostId} {s : State} (hs : QueueInv s) : QueueInv (sessionEnded h s) := by
  refine (queueInv_iff _).2 fun g => ?_
  rw [sessionEnded, State.setBox_box, State.setBox_attached, State.setPort_attached]
  split
  · exact ⟨boxOk_initial, fun _ => rfl⟩
  · exact ⟨hs.boxOk g, hs.detached⟩

/-- After the session of `h` has ended, its teardown only posts to others (R89, R103). -/
theorem teardown_posts (h : HostId) (s : State) : OnlyPosts (sessionEnded h s) (teardown h s) := by
  have freed : OnlyPosts (authorityTorn h s) (released h s) := .of_box (fun _ => rfl) fun _ => rfl
  exact ((authorityReleased_posts h _).trans freed).trans_other (teardown_released_frame h s) (by simp)

theorem QueueInv.of_initial {s : State} (h : ∀ g, s.box g = .initial) : QueueInv s :=
  (queueInv_iff s).2 fun g => ⟨(h g).symm ▸ boxOk_initial, fun _ => h g⟩

/-! ### Every step -/

theorem requestsKeep_queueInv : RequestsKeep QueueInv := by
  intro h levels r s _ hopen _ hs
  have attached : openToDetached r = false → s.attached h = true := fun hc => by simpa [hc] using hopen
  have other : ∀ {ps : List Part} {t : State}, OnlyChanges ps s t → [.notices, .ports].Disjoint ps → QueueInv t :=
    fun hf hps => hs.of_posts (.of_other hf hps)
  cases r with
  | attach => exact attachAt_queueInv hs
  | detach => exact (sessionEnded_queueInv hs).of_posts (teardown_posts h s)
  | status => exact hs
  | echo data => exact hs
  | sessions => exact hs
  | readTime => exact hs
  | timeStatus => exact hs
  | setTime v => exact hs.of_posts (setTimeAt_posts v s)
  | step v => exact hs.of_posts (stepAt_posts v s)
  | slew v => exact other (slewAt_frame v s) (by simp)
  | setTrim source trim => exact other (setTrimAt_frame source trim s) (by simp)
  | setSources v => exact hs.of_posts (setSourcesAt_posts h v levels s)
  | sourceStatus => exact hs
  | claim lease => exact hs.of_posts (claimAt_posts h lease s)
  | release => exact hs.of_posts (releaseAt_posts h s)
  | withdraw => exact other (withdrawAt_frame h s) (by simp)
  | authStatus => exact hs
  | alloc => exact other (allocAt_frame h s) (by simp)
  | free slot => exact freeAt_queueInv hs (attached rfl) slot
  | arm v => exact hs.of_posts (armAt_posts h v s)
  | cancel slot => exact other (cancelAt_frame h slot s) (by simp)
  | timerStatus slot => exact (timerStatusAt_state h slot s).symm ▸ hs
  | take => exact takeAt_queueInv hs (attached rfl)
  | ack => exact ackAt_queueInv hs (attached rfl)
  | peek => exact peekAt_queueInv hs (attached rfl)
  | setThreshold v => exact setThresholdAt_queueInv hs (attached rfl) v
  | bindPin pin idle width => exact other (bindPinAt_frame h pin idle width s) (by simp)
  | unbindPin pin => exact other (unbindPinAt_frame h pin s) (by simp)
  | drivePin pin action => exact other (drivePinAt_frame h pin action s) (by simp)
  | pinStatus pin => exact (pinStatusAt_state pin s).symm ▸ hs
  | setEdges input selection => exact other (setEdgesAt_frame input selection s) (by simp)
  | subscribe input cls => exact other (subscribeAt_frame h input cls s) (by simp)
  | unsubscribe input => exact other (unsubscribeAt_frame h input s) (by simp)
  | readCapture which => exact other (readCaptureAt_frame h which s) (by simp)

theorem operationsKeep_queueInv : OperationsKeep QueueInv where
  sessions s h x hx hs := hs.of_posts (.of_frame (setPort_frame h x s) (by simp) fun g => by
    rw [State.setPort_attached]
    split
    · next e => rw [hx, e]; rfl
    · rfl)
  pending _ _ hs := hs
  power _ _ hs := hs
  retained _ _ hs := hs
  requests := requestsKeep_queueInv
  advance levels s hs := hs.of_posts
    (OnlyPosts.trans (.of_other (slewApplied_frame s) (by simp)) (takeAdvance_posts _ levels _))
  expireHead s hs := hs.of_posts (expireReached_posts _ _ _ s)
  endPulse p s hs := hs.of_posts (.of_other (endPulse_frame p s) (by simp))
  takeCapture s hs := hs.of_posts (takeCapture_posts s)
  expireLease s hs := hs.of_posts (expireLease_posts s)
  superviseCycle _ hs := hs
  setWatched w x s hs := hs.of_posts (setWatched_posts w x s)
  loseSource w levels s hs := hs.of_posts (loseSource_posts w levels s)
  qualify w s hs := hs.of_posts (qualify_posts w s)
  endHoldOff w s hs := hs.of_posts (endHoldOff_posts w s)
  timeOutWait s hs := hs.of_posts (timeOutWait_posts s)
  teardown h s hs := (sessionEnded_queueInv hs).of_posts (teardown_posts h s)
  mainDomainCleared s _ := .of_initial (mainDomainCleared_box s)
  mainReset s _ := .of_initial (mainDomainCleared_box s)

end Sys2Proof.Machine

namespace Sys2Proof.Proofs

open Sys2Proof.Machine

/-- Settles O3: the blocks only post to the queues, the commands of a queue remove from it, and a teardown or reset
clears it. -/
theorem stepKeepsQueues : Obligations.StepKeepsQueues := by
  unfold Obligations.StepKeepsQueues
  exact fun _ _ hs h => operationsKeep_queueInv.step hs h

end Sys2Proof.Proofs
end

section
/-! A post in the words of its rules: the merged fields, the place of an inserted notice, and the system notices kept
(R89 to R93). -/

namespace Sys2Proof.Machine

/-! ### The merged fields (R90) -/

theorem mergedDetail_timeStepped (a b : Int) :
    mergedDetail .timeStepped (some (.number a)) (some (.number b)) =
      some (.number (max (-4611686018427387904) (min 4611686018427387904 (a + b)))) := rfl

theorem mergedDetail_authWanted (old new : Option Detail) : mergedDetail .authWanted old new = old := by
  cases old <;> rfl

/-- Every other kind takes the detail of the new notice. -/
theorem mergedDetail_other {kind : NoticeKind} {old new : Option Detail}
    (hstep : ∀ a b, kind = .timeStepped → old = some (.number a) → new = some (.number b) → False)
    (hwanted : kind = .authWanted → False) : mergedDetail kind old new = new := by
  unfold mergedDetail
  split
  · next a b => exact (hstep a b rfl rfl rfl).elim
  · exact (hwanted rfl).elim
  · rfl

theorem mergeNotice_eq {z n : Notice} {d : Option Detail} (hd : mergedDetail z.kind z.detail n.detail = d) :
    mergeNotice z n = { z with
      count := min 255 (z.count + 1)
      flags := ⟨z.flags.late || n.flags.late, z.flags.holdover || n.flags.holdover,
        z.flags.retained || n.flags.retained, z.flags.firstSet || n.flags.firstSet⟩
      detail := d } := by
  rw [← hd]
  rfl

/-! ### The place of a new notice (R91) -/

/-- In a queue in class order the notices of a class or higher are those before the first lower one. -/
theorem insertNotice_eq_filter {n : Notice} {q : List Notice} (hq : q.Pairwise fun y z => z.cls ≤ y.cls) :
    insertNotice n q = (q.filter fun z => n.cls ≤ z.cls) ++ n :: (q.filter fun z => z.cls < n.cls) := by
  induction q with
  | nil => rfl
  | cons x q ih =>
    obtain ⟨hx, hq⟩ := List.pairwise_cons.1 hq
    by_cases c : n.cls ≤ x.cls
    · have e : insertNotice n (x :: q) = x :: insertNotice n q := by simp [insertNotice, c]
      rw [e, ih hq, List.filter_cons_of_pos (by simpa using c), List.filter_cons_of_neg (by simpa using c),
        List.cons_append]
    · have e : insertNotice n (x :: q) = n :: x :: q := by simp [insertNotice, c]
      have lower : ∀ z ∈ x :: q, z.cls < n.cls := fun z hz => by
        rcases List.mem_cons.1 hz with rfl | hz
        · omega
        · have := hx z hz
          omega
      have before : (x :: q).filter (fun z => n.cls ≤ z.cls) = [] :=
        List.filter_eq_nil_iff.2 fun z hz => by simpa using lower z hz
      have after : (x :: q).filter (fun z => z.cls < n.cls) = x :: q :=
        List.filter_eq_self.2 fun z hz => by simpa using lower z hz
      rw [e, before, after, List.nil_append]

/-! ### System notices (R93) -/

/-- The kinds and origins of system notices (R86). -/
def systemKeys : List (NoticeKind × Option Origin) :=
  [(.timeStepped, none), (.source, none), (.authGranted, none), (.authLost, none), (.authWanted, some (.host .a)),
    (.authWanted, some (.host .b)), (.authWanted, some (.host .c))]

theorem SystemShape.key_mem {n : Notice} (h : SystemShape n) : (n.kind, n.origin) ∈ systemKeys := by
  rcases h with ⟨hk | hk | hk | hk, ho⟩ | ⟨hk, g, ho⟩
  · simp [systemKeys, hk, ho]
  · simp [systemKeys, hk, ho]
  · simp [systemKeys, hk, ho]
  · simp [systemKeys, hk, ho]
  · cases g <;> simp [systemKeys, hk, ho]

theorem SystemShape.of_sameKey {n y : Notice} (h : SystemShape n) (hk : sameKey n y = true) : SystemShape y := by
  obtain ⟨hkind, horigin⟩ := sameKey_iff.1 hk
  rwa [SystemShape, hkind, horigin] at h

/-- System notices of distinct kinds and origins are at most as many as there are such keys. -/
theorem length_le_of_systemShape {q : List Notice}
    (hq : q.Pairwise fun y z => ¬(y.kind = z.kind ∧ y.origin = z.origin)) (hs : ∀ y ∈ q, SystemShape y) :
    q.length ≤ 7 := by
  have nodup : (q.map fun y => (y.kind, y.origin)).Nodup :=
    List.pairwise_map.2 (hq.imp fun h c => h (Prod.mk.inj c))
  have sub : (q.map fun y => (y.kind, y.origin)) ⊆ systemKeys := fun k hk => by
    obtain ⟨y, hy, rfl⟩ := List.mem_map.1 hk
    exact (hs y hy).key_mem
  calc q.length = (q.map fun y => (y.kind, y.origin)).length := (List.length_map _).symm
    _ ≤ systemKeys.length := (List.subperm_of_subset nodup sub).length_le
    _ = 7 := rfl

/-- The last notice of a full queue is no system notice. -/
theorem BoxOk.last_cls_lt {x : NoticeBox} (hx : BoxOk x) (hc : ∀ y ∈ x.queue, Classed y)
    (hl : x.queue.length = 16) {q : List Notice} {y : Notice} (hq : x.queue = q ++ [y]) : y.cls < 4 := by
  by_contra hy
  have least : ∀ z ∈ x.queue, y.cls ≤ z.cls := fun z hz => by
    have horder := hx.ordered
    rw [hq] at hz horder
    obtain ⟨-, -, hlast⟩ := List.pairwise_append.1 horder
    rcases List.mem_append.1 hz with hz | hz
    · exact hlast z hz y (List.mem_singleton.2 rfl)
    · rw [List.mem_singleton.1 hz]
  have system : ∀ z ∈ x.queue, SystemShape z := fun z hz => by
    obtain ⟨hle, hshape⟩ := hc z hz
    have := least z hz
    exact hshape.1 (by omega)
  have := length_le_of_systemShape hx.distinct system
  omega

/-- A notice of class 4 with the kind and origin of `y` stands in `q`. -/
def KeptIn (q : List Notice) (y : Notice) : Prop := ∃ z ∈ q, z.cls = 4 ∧ z.kind = y.kind ∧ z.origin = y.origin

theorem KeptIn.of_mem {q : List Notice} {y : Notice} (hy : y ∈ q) (hc : y.cls = 4) : KeptIn q y := ⟨y, hy, hc, rfl, rfl⟩

/-- A merge changes no class, kind or origin. -/
theorem KeptIn.merge {q : List Notice} {y : Notice} (n : Notice) (h : KeptIn q y) :
    KeptIn (q.map fun z => if sameKey n z then mergeNotice z n else z) y := by
  obtain ⟨z, hz, hkept⟩ := h
  refine ⟨_, List.mem_map_of_mem hz, ?_⟩
  split
  · exact hkept
  · exact hkept

/-- The system notice posted, and those queued before, are kept: only the last notice of a full queue gives way. -/
theorem BoxOk.post_keeps_system {x : NoticeBox} (hx : BoxOk x) (hc : ∀ y ∈ x.queue, Classed y) {n : Notice}
    (hn : SystemShape n) (h4 : n.cls = 4) :
    KeptIn (x.post n).queue n ∧ ∀ y ∈ x.queue, y.cls = 4 → KeptIn (x.post n).queue y := by
  by_cases hk : x.holdsKey n
  · rw [NoticeBox.post_of_holdsKey hk]
    obtain ⟨y, hy, hsame⟩ := hk
    obtain ⟨hkind, horigin⟩ := sameKey_iff.1 hsame
    obtain ⟨-, hshape⟩ := hc y hy
    have queued : KeptIn x.queue n := ⟨y, hy, hshape.2 (hn.of_sameKey hsame), hkind.symm, horigin.symm⟩
    exact ⟨queued.merge n, fun z hz hz4 => (KeptIn.of_mem hz hz4).merge n⟩
  · rcases Nat.lt_or_eq_of_le hx.bounded with hl | hl
    · rw [NoticeBox.post_of_room hk hl]
      exact ⟨.of_mem (mem_insertNotice.2 (.inl rfl)) h4, fun z hz => .of_mem (mem_insertNotice.2 (.inr hz))⟩
    · obtain ⟨q, y, hq⟩ := (List.eq_nil_or_concat' x.queue).resolve_left (fun c => by simp [c] at hl)
      have hy : y.cls < 4 := hx.last_cls_lt hc hl hq
      rw [NoticeBox.post_of_full hk hl hq, if_pos (h4.symm ▸ hy)]
      refine ⟨.of_mem (mem_insertNotice.2 (.inl rfl)) h4, fun z hz hz4 => ?_⟩
      rw [hq] at hz
      rcases List.mem_append.1 hz with hz | hz
      · exact .of_mem (mem_insertNotice.2 (.inr hz)) hz4
      · rw [List.mem_singleton.1 hz] at hz4
        omega

end Sys2Proof.Machine

namespace Sys2Proof.Proofs

open Sys2Proof.Machine

/-- Settles O36: the three cases of a post, with the insertion read off a queue in class order. -/
theorem postingToQueue : Obligations.PostingToQueue := by
  unfold Obligations.PostingToQueue
  intro h n s hs
  refine ⟨fun hd => by rw [post, if_neg (by simp [hd])], fun ha => ?_⟩
  intro x same t
  have hx : BoxOk x := hs.boxOk h
  have hbox : t.box h = x.post n := by rw [post_box, if_pos ⟨rfl, ha⟩]
  have hsame : ∀ z, same z = sameKey n z := fun z =>
    decide_eq_decide.2 ⟨fun ⟨hk, ho⟩ => ⟨hk.symm, ho.symm⟩, fun ⟨hk, ho⟩ => ⟨hk.symm, ho.symm⟩⟩
  have new : (∀ y, y ∈ x.queue → same y = false) → ¬x.holdsKey n := fun hno ⟨y, hy, hk⟩ => by
    rw [← hsame, hno y hy] at hk
    cases hk
  rw [hbox]
  refine ⟨fun g hg => by rw [post_box, if_neg fun c => hg c.1], post_frame h n s, post_inHand n x, post_threshold n x,
    fun y hy hk => ?_, fun hno hl => ?_, fun hno hl q y hq => ?_⟩
  · rw [NoticeBox.post_of_holdsKey ⟨y, hy, hsame y ▸ hk⟩]
    refine ⟨rfl, List.map_congr_left fun z _ => ?_⟩
    rw [hsame z]
    refine if_congr Iff.rfl (mergeNotice_eq ?_) rfl
    split
    · next e eold enew => rw [e, eold, enew, mergedDetail_timeStepped]
    · next e => rw [e, mergedDetail_authWanted]
    · next hwanted hstep => exact mergedDetail_other hstep hwanted
  · rw [NoticeBox.post_of_room (new hno) hl]
    exact ⟨rfl, insertNotice_eq_filter hx.ordered⟩
  · rw [NoticeBox.post_of_full (new hno) hl hq]
    have horder : q.Pairwise fun y z => z.cls ≤ y.cls := hx.ordered.sublist (hq ▸ List.sublist_append_left q [y])
    exact ⟨rfl, if_congr Iff.rfl (insertNotice_eq_filter horder) rfl⟩

/-- Settles O37: a full queue ends in a notice of class 3 or lower, since system notices have too few kinds and origins
to fill it. -/
theorem systemNoticesAreKept : Obligations.SystemNoticesAreKept := by
  unfold Obligations.SystemNoticesAreKept
  intro h n s hs hc ha hn h4
  rw [post_box, if_pos ⟨rfl, ha⟩]
  exact (hs.boxOk h).post_keeps_system (hc.queues h) hn h4

end Sys2Proof.Proofs
end

section
/-! The commands of a host's own queue, TAKE, ACK, PEEK and SET_THRESHOLD (R97 to R100). -/

namespace Sys2Proof.Machine

/-! ### What each command does to the caller's box -/

section Commands

variable {h : HostId} {s : State}

theorem takeAt_of_inHand {n : Notice} (hi : (s.box h).inHand = some n) :
    takeAt h s = (s, ⟨.inHand, noticeBytes n ++ byteOf (s.box h).queue.length⟩) := by
  unfold takeAt
  simp only [hi]

theorem takeAt_of_nil (hi : (s.box h).inHand = none) (hq : (s.box h).queue = []) :
    takeAt h s = (s, ⟨.empty, [0]⟩) := by
  unfold takeAt
  simp only [hi, hq]
  rfl

theorem takeAt_of_cons {n : Notice} {rest : List Notice} (hi : (s.box h).inHand = none)
    (hq : (s.box h).queue = n :: rest) :
    takeAt h s = (s.setBox h { s.box h with queue := rest, inHand := some n },
      ⟨.ok, noticeBytes n ++ byteOf rest.length⟩) := by
  unfold takeAt
  simp only [hi, hq]
  rfl

theorem ackAt_of_inHand {n : Notice} (hi : (s.box h).inHand = some n) :
    ackAt h s = (s.setBox h { s.box h with inHand := none },
      ⟨.ok, [flagCode n.origin.isSome, noticeKindCode n.kind, (n.origin.map originCode).getD 0] ++
        byteOf (s.box h).queue.length⟩) := by
  unfold ackAt
  simp only [hi]
  cases n.origin <;> rfl

theorem ackAt_of_none (hi : (s.box h).inHand = none) : ackAt h s = (s, ⟨.state, []⟩) := by
  unfold ackAt
  simp only [hi]
  rfl

theorem peekAt_of_nil (hq : (s.box h).queue = []) :
    peekAt h s = (s.setBox h { s.box h with drops := 0 }, ⟨.ok, [0] ++ byteOf 0 ++ [0, 0] ++
      [flagCode (s.box h).inHand.isSome] ++ bytesOf 2 (s.box h).drops ++ byteOf (s.box h).threshold⟩) := by
  unfold peekAt
  simp only [hq]
  rfl

theorem peekAt_of_cons {n : Notice} {rest : List Notice} (hq : (s.box h).queue = n :: rest) :
    peekAt h s = (s.setBox h { s.box h with drops := 0 }, ⟨.ok, [3] ++ byteOf (n :: rest).length ++
      ([noticeKindCode n.kind] ++ byteOf n.cls) ++
      [flagCode (s.box h).inHand.isSome] ++ bytesOf 2 (s.box h).drops ++ byteOf (s.box h).threshold⟩) := by
  unfold peekAt
  simp only [hq]
  rfl

theorem setThresholdAt_of_range {v : Byte} (hv : v.toNat ≤ 5) :
    setThresholdAt h v s = (s.setBox h { s.box h with threshold := v.toNat }, ⟨.ok, byteOf (s.box h).threshold ++
      [flagCode (irqAsserted (s.setBox h { s.box h with threshold := v.toNat }) h)]⟩) := by
  rw [setThresholdAt, thresholdOf, if_pos hv]
  rfl

theorem setThresholdAt_out_of_range {v : Byte} (hv : 5 < v.toNat) : setThresholdAt h v s = (s, ⟨.range, []⟩) := by
  rw [setThresholdAt, thresholdOf, if_neg (by omega)]
  rfl

end Commands

/-! ### The request -/

section QueueRequest

variable {h : HostId} {q : Byte} {r : Request} {s : State} {x : NoticeBox} {res : Result} {payload : List Byte}

/-- The line is judged by the state whose answer is held: no answer moves it (R102). -/
@[simp] theorem irqAsserted_holdAnswer (g : HostId) (op : Byte) (y : Reply) (t : State) :
    irqAsserted (holdAnswer h op q y t) g = irqAsserted t g := by
  rw [irqAsserted, irqAsserted, holdAnswer_running, holdAnswer_attached, holdAnswer_box]

/-- The boxes after a request that writes the caller's. -/
theorem boxRequest_box (op : Byte) (y : Reply) (g : HostId) :
    (holdAnswer h op q y ((requestTaken h q r s).setBox h x)).box g = if g = h then x else s.box g := by
  rw [holdAnswer_box, State.setBox_box, requestTaken_box]

/-- A request whose command changes the caller's box alone. -/
theorem boxRequest_held (ht : Takes h (opcodeOf r) q s) (hw : r.wellFormed = true) (hh : authorityOnly r = false)
    (hc : carryOut h noLevels r (requestTaken h q r s) =
      atOnce ((requestTaken h q r s).setBox h x, ⟨res, payload⟩)) :
    ∃ t, (Host.Outcome.next (requestRow h q r noLevels s) : Host.Outcome State Fault Refusal) = .next t ∧
      RequestFrame h [.notices] s t ∧ (∀ g, t.box g = if g = h then x else s.box g) ∧
      Answers h (opcodeOf r) q res payload t := by
  obtain ⟨hr, ha⟩ := ht
  obtain ⟨e, hf, hx⟩ :=
    request_held hr hw (.inl ha) (fun c => by rw [hh] at c; cases c) hc (setBox_frame _ _ _) rfl
  exact ⟨_, e, hf, boxRequest_box _ _, hx⟩

/-- A request whose command leaves the box as it stands. -/
theorem boxRequest_unchanged (ht : Takes h (opcodeOf r) q s) (hw : r.wellFormed = true) (hh : authorityOnly r = false)
    (hc : carryOut h noLevels r (requestTaken h q r s) = atOnce (requestTaken h q r s, ⟨res, payload⟩)) :
    ∃ t, (Host.Outcome.next (requestRow h q r noLevels s) : Host.Outcome State Fault Refusal) = .next t ∧
      RequestFrame h [] s t ∧ Answers h (opcodeOf r) q res payload t := by
  obtain ⟨hr, ha⟩ := ht
  exact request_unchanged hr hw (.inl ha) (fun c => by rw [hh] at c; cases c) hc

end QueueRequest

end Sys2Proof.Machine

namespace Sys2Proof.Proofs

open Sys2Proof.Machine

/-- Settles O38: each command by the cases of its rule, on the caller's box. -/
theorem takeAckAndPeek : Obligations.TakeAckAndPeek := by
  unfold Obligations.TakeAckAndPeek
  intro h q s
  refine ⟨fun ht => ⟨fun n hi => ?_, fun hi hq => ?_, fun n rest hi hq => ?_⟩,
    fun ht => ⟨fun n hi => ?_, fun hi => ?_⟩, fun ht => ?_⟩
  · exact boxRequest_unchanged ht rfl rfl (congrArg atOnce (takeAt_of_inHand (s := requestTaken h q .take s) hi))
  · exact boxRequest_unchanged ht rfl rfl (congrArg atOnce (takeAt_of_nil (s := requestTaken h q .take s) hi hq))
  · exact boxRequest_held (r := .take) ht rfl rfl
      (congrArg atOnce (takeAt_of_cons (s := requestTaken h q .take s) hi hq))
  · exact boxRequest_held (r := .ack) ht rfl rfl
      (congrArg atOnce (ackAt_of_inHand (s := requestTaken h q .ack s) hi))
  · exact boxRequest_unchanged ht rfl rfl (congrArg atOnce (ackAt_of_none (s := requestTaken h q .ack s) hi))
  · cases hq : (s.box h).queue with
    | nil =>
      exact boxRequest_held (r := .peek) ht rfl rfl
        (congrArg atOnce (peekAt_of_nil (s := requestTaken h q .peek s) hq))
    | cons n rest =>
      exact boxRequest_held (r := .peek) ht rfl rfl
        (congrArg atOnce (peekAt_of_cons (s := requestTaken h q .peek s) hq))

/-- Settles O39: the line is judged on the box with the new threshold. -/
theorem setThresholdJudgesLine : Obligations.SetThresholdJudgesLine := by
  unfold Obligations.SetThresholdJudgesLine
  intro h q v s ht
  refine ⟨fun hv => ?_, fun hv => ?_⟩
  · obtain ⟨hr, ha⟩ := ht
    obtain ⟨e, hf, hx⟩ := request_held (r := .setThreshold v) hr rfl (.inl ha) (fun c => by cases c)
      (congrArg atOnce (setThresholdAt_of_range (s := requestTaken h q (.setThreshold v) s) hv)) (setBox_frame _ _ _) rfl
    refine ⟨_, e, hf, boxRequest_box _ _, ?_⟩
    rw [irqAsserted_holdAnswer]
    exact hx
  · exact boxRequest_unchanged ht rfl rfl
      (congrArg atOnce (setThresholdAt_out_of_range (s := requestTaken h q (.setThreshold v) s) hv))

end Sys2Proof.Proofs
end

section
/-! The places of the waiting list, and CLAIM by the cases of its rule (R105, R108). -/

namespace Sys2Proof.Machine

/-! ### Leases and the holder -/

theorem leaseOf_of_range {v : BitVec 16} (hlo : 1 ≤ v.toNat) (hhi : v.toNat ≤ 600) : leaseOf v = some v.toNat :=
  if_pos ⟨hlo, hhi⟩

theorem leaseOf_out_of_range {v : BitVec 16} (h : v.toNat = 0 ∨ 600 < v.toNat) : leaseOf v = none :=
  if_neg (by omega)

theorem leaseOf_range {v : BitVec 16} {n : Nat} (h : leaseOf v = some n) : 1 ≤ n ∧ n ≤ 600 := by
  unfold leaseOf at h
  split at h
  · cases h
    assumption
  · cases h

theorem holder_of_holding {s : State} {x : Holding} (h : s.auth.holding = some x) : holder s = some x.host := by
  rw [holder, h]
  rfl

theorem holding_of_holder {s : State} {h : HostId} (hh : holder s = some h) :
    ∃ x, s.auth.holding = some x ∧ x.host = h := Option.map_eq_some_iff.1 hh

/-! ### Places in the waiting list -/

/-- A host without a place in the waiting list. -/
theorem position_of_absent {s : State} {h : HostId} (hw : ∀ w ∈ s.auth.waiting, w.host ≠ h) : position s h = none := by
  rw [← Option.isNone_iff_eq_none, ← Option.not_isSome, position_isSome]
  simpa using hw

section Waiting

variable {h : HostId} {ahead behind : List Waiter} {asked : Nat} {s : State}
  (hw : s.auth.waiting = ahead ++ ⟨h, asked⟩ :: behind) (hfirst : ∀ w ∈ ahead, w.host ≠ h)

include hw hfirst

theorem position_of_split : position s h = some (ahead.length + 1) := by
  have absent : ahead.findIdx? (fun w => decide (w.host = h)) = none :=
    List.findIdx?_eq_none_iff.2 fun w hm => by simpa using hfirst w hm
  rw [position, hw, List.findIdx?_append, absent, List.findIdx?_cons]
  simp

theorem leaseAsked_of_split : leaseAsked s h = asked := by
  have absent : ahead.find? (fun w => decide (w.host = h)) = none :=
    List.find?_eq_none.2 fun w hm => by simpa using hfirst w hm
  rw [leaseAsked, hw, List.find?_append, absent, List.find?_cons]
  simp

/-- The answer QUEUED names the first place of the host and the lease it asked for there (R108). -/
theorem queuedReply_of_split : queuedReply h s =
    ⟨.queued, [hostCode (holder s)] ++ byteOf (ahead.length + 1) ++ bytesOf 2 asked⟩ := by
  rw [queuedReply, position_of_split hw hfirst, leaseAsked_of_split hw hfirst]
  rfl

end Waiting

/-! ### CLAIM (R108) -/

/-- `s` with `h` at the end of the waiting list, and AUTH_WANTED posted to `g` (R108). -/
def queued (g h : HostId) (lease : Nat) (s : State) : State :=
  post g (arbiterNotice s .authWanted (some (.host h)) none)
    { s with auth := { s.auth with waiting := s.auth.waiting ++ [⟨h, lease⟩] } }

@[simp] theorem queued_auth (g h : HostId) (lease : Nat) (s : State) :
    (queued g h lease s).auth = { s.auth with waiting := s.auth.waiting ++ [⟨h, lease⟩] } := post_auth _ _ _

section Claim

variable {h : HostId} {v : BitVec 16} {s : State}

theorem claimAt_of_no_lease (hn : leaseOf v = none) : claimAt h v s = (s, .bare .range) := by
  rw [claimAt, hn]

variable {n : Nat} (hn : leaseOf v = some n)

include hn

theorem claimAt_of_free (hx : s.auth.holding = none) :
    claimAt h v s = (grant h n s, .okWith (hostCode (some h) :: bytesOf 2 n)) := by
  simp only [claimAt, hn, hx]

variable {x : Holding} (hx : s.auth.holding = some x)

include hx

theorem claimAt_of_held : claimAt x.host v s =
    ({ s with auth := { s.auth with holding := some ⟨x.host, n, 0⟩ } },
      .okWith (hostCode (some x.host) :: bytesOf 2 n)) := by
  simp only [claimAt, hn, hx, if_true]

variable (ho : x.host ≠ h)

include ho

theorem claimAt_of_waiting (hw : ∃ w ∈ s.auth.waiting, w.host = h) : claimAt h v s = (s, queuedReply h s) := by
  have placed : (position s h).isSome = true := by simpa [position_isSome] using hw
  simp only [claimAt, hn, hx, if_neg ho, if_pos placed]

theorem claimAt_of_new (hw : ∀ w ∈ s.auth.waiting, w.host ≠ h) :
    claimAt h v s = (queued x.host h n s, queuedReply h (queued x.host h n s)) := by
  have absent : ¬(position s h).isSome = true := by simp [position_of_absent hw]
  simp only [claimAt, queued, hn, hx, if_neg ho, if_neg absent]

end Claim

end Sys2Proof.Machine
end

section
/-! The arbiter: the holder and the waiters as one list of parties. A hand-over takes its head off, CLAIM joins its end,
WITHDRAW and a teardown strike a host out, and everything else leaves it (R105 to R119). -/

namespace Sys2Proof.Machine

/-! ### The parties of the arbiter -/

/-- The hosts the arbiter knows, each with its lease: the holder, if there is one, and then the waiting list. -/
def Authority.parties (a : Authority) : List Waiter :=
  (a.holding.map fun x => (⟨x.host, x.lease⟩ : Waiter)).toList ++ a.waiting

/-- Nobody waits for an authority that is free (R105). -/
def Authority.Served (a : Authority) : Prop := a.holding = none → a.waiting = []

theorem Authority.parties_of_free {a : Authority} (h : a.holding = none) : a.parties = a.waiting := by
  simp [Authority.parties, h]

theorem Authority.parties_of_held {a : Authority} {x : Holding} (h : a.holding = some x) :
    a.parties = ⟨x.host, x.lease⟩ :: a.waiting := by
  simp [Authority.parties, h]

theorem Authority.served_of_held {a : Authority} {x : Holding} (h : a.holding = some x) : a.Served := fun c => by
  rw [h] at c; cases c

/-- Distinct hosts are at most three. -/
theorem HostId.length_le_three {l : List HostId} (hl : l.Nodup) : l.length ≤ 3 :=
  (List.subperm_of_subset (l₂ := HostId.all) hl fun h _ => by cases h <;> simp [HostId.all]).length_le

/-- The conditions on a list of parties: distinct attached hosts with leases in range (R106, R108). -/
structure PartiesOk (s : State) (l : List Waiter) : Prop where
  distinct : (l.map (·.host)).Nodup
  attached : ∀ w ∈ l, s.attached w.host = true
  lease : ∀ w ∈ l, 1 ≤ w.lease ∧ w.lease ≤ 600

/-- The arbiter's invariant, said of its parties: that at most two hosts wait follows from there being three. -/
theorem authInv_iff (s : State) : AuthInv s ↔ PartiesOk s s.auth.parties ∧ s.auth.Served := by
  unfold AuthInv Authority.Served
  cases hx : s.auth.holding with
  | none =>
    have hh : holder s = none := by rw [holder, hx]; rfl
    rw [Authority.parties_of_free hx]
    constructor
    · rintro ⟨-, -, hdistinct, hwait, hfree⟩
      refine ⟨⟨hdistinct, fun w hw => ?_, fun w hw => ?_⟩, hfree⟩
      · obtain ⟨hatt, -⟩ := hwait w hw
        exact hatt
      · obtain ⟨-, -, hlease⟩ := hwait w hw
        exact hlease
    · rintro ⟨hok, hfree⟩
      refine ⟨fun x c => (by cases c), by simp [hfree rfl], hok.distinct, fun w hw => ?_, hfree⟩
      exact ⟨hok.attached w hw, by simp [hh], hok.lease w hw⟩
  | some x =>
    rw [Authority.parties_of_held hx, holder_of_holding hx]
    constructor
    · rintro ⟨hheld, -, hdistinct, hwait, hfree⟩
      obtain ⟨hatt, hlease⟩ := hheld x rfl
      refine ⟨⟨List.nodup_cons.2 ⟨fun c => ?_, hdistinct⟩, List.forall_mem_cons.2 ⟨hatt, fun w hw => ?_⟩,
        List.forall_mem_cons.2 ⟨hlease, fun w hw => ?_⟩⟩, hfree⟩
      · obtain ⟨w, hw, e⟩ := List.mem_map.1 c
        obtain ⟨-, hne, -⟩ := hwait w hw
        exact hne (congrArg some e.symm)
      · obtain ⟨hatt', -⟩ := hwait w hw
        exact hatt'
      · obtain ⟨-, -, hlease'⟩ := hwait w hw
        exact hlease'
    · rintro ⟨hok, hfree⟩
      have hthree := HostId.length_le_three hok.distinct
      obtain ⟨hnot, hdistinct⟩ := List.nodup_cons.1 hok.distinct
      refine ⟨fun y hy => ?_, by simpa [Nat.lt_succ_iff] using hthree, hdistinct, fun w hw => ?_, hfree⟩
      · cases hy
        exact ⟨hok.attached _ List.mem_cons_self, hok.lease _ List.mem_cons_self⟩
      · have hw' := List.mem_cons_of_mem (⟨x.host, x.lease⟩ : Waiter) hw
        refine ⟨hok.attached w hw', fun c => hnot ?_, hok.lease w hw'⟩
        exact List.mem_map.2 ⟨w, hw, (Option.some.inj c).symm⟩

/-! ### What leaves the parties -/

/-- Parties struck out, and nothing else: those left are in order while their sessions stand. -/
theorem AuthInv.of_sublist {s t : State} (hs : AuthInv s) (hl : t.auth.parties.Sublist s.auth.parties)
    (hserved : t.auth.Served) (hatt : ∀ w ∈ t.auth.parties, s.attached w.host = true → t.attached w.host = true) :
    AuthInv t := by
  obtain ⟨hok, -⟩ := (authInv_iff s).1 hs
  exact (authInv_iff t).2 ⟨⟨hok.distinct.sublist (hl.map _), fun w hw => hatt w hw (hok.attached w (hl.subset hw)),
    fun w hw => hok.lease w (hl.subset hw)⟩, hserved⟩

theorem AuthInv.of_auth {s t : State} (hs : AuthInv s) (ha : t.auth = s.auth)
    (hatt : ∀ g, s.attached g = true → t.attached g = true) : AuthInv t := by
  obtain ⟨-, hserved⟩ := (authInv_iff s).1 hs
  exact hs.of_sublist (ha ▸ .refl _) (ha ▸ hserved) fun w _ => hatt w.host

/-- What leaves the arbiter and the sessions. -/
theorem AuthInv.of_frame {ps : List Part} {s t : State} (hs : AuthInv s) (hf : OnlyChanges ps s t) (hps : .auth ∉ ps)
    (hp : ∀ g, t.attached g = s.attached g) : AuthInv t := by
  obtain ⟨-, -, -, -, hauth, -⟩ := hf
  exact hs.of_auth (hauth hps) fun g => (hp g).symm ▸ id

/-- The same for what leaves the ports too. -/
theorem AuthInv.of_other {ps : List Part} {s t : State} (hs : AuthInv s) (hf : OnlyChanges ps s t)
    (hps : [.auth, .ports].Disjoint ps) : AuthInv t :=
  hs.of_frame hf (hps (by simp)) (hf.attached (hps (by simp)))

/-- The lease runs on elapsed time, whoever holds it (R107). -/
theorem takeAdvance_authInv {m : Nat} {levels : Quad Level} {s : State} (hs : AuthInv s) :
    AuthInv (takeAdvance m levels s) := by
  obtain ⟨-, hserved⟩ := (authInv_iff s).1 hs
  have hparties : (takeAdvance m levels s).auth.parties = s.auth.parties := by
    rw [takeAdvance_auth]
    cases hx : s.auth.holding <;> simp [Authority.parties, hx]
  have hserved' : (takeAdvance m levels s).auth.Served := fun c => by
    rw [takeAdvance_auth] at c ⊢
    exact hserved (Option.map_eq_none_iff.1 c)
  exact hs.of_sublist (hparties ▸ .refl _) hserved' fun w _ hw => ((takeAdvance_posts m levels s).attached _).trans hw

/-! ### The hand-over (R111) -/

/-- The hand-over takes the holder off the list: the head waiter holds, or nobody. -/
theorem grantNext_parties (s : State) : (grantNext s).auth.parties = s.auth.waiting ∧ (grantNext s).auth.Served := by
  cases hw : s.auth.waiting with
  | nil => rw [grantNext_of_nil hw]; exact ⟨rfl, fun _ => rfl⟩
  | cons w rest =>
    rw [grantNext_of_cons hw, grant_auth]
    exact ⟨rfl, fun c => by cases c⟩

theorem Authority.waiting_sublist (a : Authority) : a.waiting.Sublist a.parties := List.sublist_append_right _ _

theorem grantNext_authInv {s : State} (hs : AuthInv s) : AuthInv (grantNext s) := by
  obtain ⟨hparties, hserved⟩ := grantNext_parties s
  exact hs.of_sublist (hparties ▸ s.auth.waiting_sublist) hserved
    fun w _ hw => ((grantNext_posts s).attached _).trans hw

theorem endWaitIf_authInv {p : Prop} [Decidable p] {r : Option Reply} {s : State} (hs : AuthInv s) :
    AuthInv (if p then endWait r s else s) :=
  hs.of_frame (endWaitIf_frame p r s) (by simp) (endWaitIf_posts p r s).attached

theorem handOver_authInv {old : HostId} {torn : Bool} {s : State} (hs : AuthInv s) : AuthInv (handOver old torn s) :=
  endWaitIf_authInv (grantNext_authInv hs)

theorem expireLease_authInv {s : State} (hs : AuthInv s) : AuthInv (expireLease s) := by
  unfold expireLease
  split
  · split
    · exact handOver_authInv (hs.of_other (post_frame _ _ _) (by simp))
    · exact hs
  · exact hs

theorem releaseAt_authInv {h : HostId} {s : State} (hs : AuthInv s) : AuthInv (releaseAt h s).1 := by
  unfold releaseAt
  split
  · exact handOver_authInv hs
  · exact hs

/-! ### The waiting list left (R112, R119) -/

theorem leaveWaiting_waiting (h : HostId) (s : State) :
    (leaveWaiting h s).auth.waiting = s.auth.waiting.filter fun w => w.host ≠ h := rfl

theorem leaveWaiting_parties_sublist (h : HostId) (s : State) :
    (leaveWaiting h s).auth.parties.Sublist s.auth.parties := (List.Sublist.refl _).append List.filter_sublist

theorem leaveWaiting_served {h : HostId} {s : State} (hs : s.auth.Served) : (leaveWaiting h s).auth.Served := fun c => by
  rw [leaveWaiting_waiting, hs c, List.filter_nil]

theorem withdrawAt_authInv {h : HostId} {s : State} (hs : AuthInv s) : AuthInv (withdrawAt h s).1 := by
  obtain ⟨-, hserved⟩ := (authInv_iff s).1 hs
  unfold withdrawAt
  split
  · exact hs.of_sublist (leaveWaiting_parties_sublist h s) (leaveWaiting_served hserved) fun _ _ => id
  · exact hs

section AuthorityReleased

variable (h : HostId) (s : State)

theorem authorityReleased_parties_sublist : (authorityReleased h s).auth.parties.Sublist s.auth.parties := by
  unfold authorityReleased
  split
  · obtain ⟨hparties, -⟩ := grantNext_parties (leaveWaiting h s)
    exact hparties ▸ (Authority.waiting_sublist _).trans (leaveWaiting_parties_sublist h s)
  · exact leaveWaiting_parties_sublist h s

theorem authorityReleased_served (hs : s.auth.Served) : (authorityReleased h s).auth.Served := by
  unfold authorityReleased
  split
  · obtain ⟨-, hserved⟩ := grantNext_parties (leaveWaiting h s)
    exact hserved
  · exact leaveWaiting_served hs

/-- The host torn down is off the waiting list, and its holding is handed over (R119). -/
theorem authorityReleased_strikes : ∀ w ∈ (authorityReleased h s).auth.parties, w.host ≠ h := by
  have filtered : ∀ w ∈ (leaveWaiting h s).auth.waiting, w.host ≠ h := fun w hw => by
    rw [leaveWaiting_waiting] at hw
    simpa using List.of_mem_filter hw
  by_cases hh : holder s = some h
  · rw [authorityReleased, if_pos hh]
    obtain ⟨hparties, -⟩ := grantNext_parties (leaveWaiting h s)
    rwa [hparties]
  · rw [authorityReleased_of_not_holder hh]
    intro w hw
    rcases List.mem_append.1 hw with hw | hw
    · obtain ⟨x, hx, rfl⟩ := Option.map_eq_some_iff.1 (Option.mem_toList.1 hw)
      exact fun e => hh (e ▸ holder_of_holding hx)
    · exact filtered w hw

end AuthorityReleased

/-- A teardown leaves the parties of other hosts, whose sessions stand (R119, R165). -/
theorem teardown_authInv {h : HostId} {s : State} (hs : AuthInv s) : AuthInv (teardown h s) := by
  obtain ⟨-, hserved⟩ := (authInv_iff s).1 hs
  have hauth : (teardown h s).auth = (authorityReleased h (sessionEnded h s)).auth := teardown_auth h s
  refine hs.of_sublist (hauth ▸ authorityReleased_parties_sublist h _) (hauth ▸ authorityReleased_served h _ hserved)
    fun w hw ha => ?_
  have hother : w.host ≠ h := authorityReleased_strikes h _ w (hauth ▸ hw)
  rwa [teardown_attached, if_neg hother]

/-! ### CLAIM (R108) -/

/-- A host that is no party yet joins at the end, as holder or as the last waiter. -/
theorem PartiesOk.join {s : State} {l : List Waiter} {h : HostId} {lease : Nat} (hl : PartiesOk s l)
    (ha : s.attached h = true) (hlease : 1 ≤ lease ∧ lease ≤ 600) (hnew : ∀ w ∈ l, w.host ≠ h) :
    PartiesOk s (l ++ [⟨h, lease⟩]) := by
  refine ⟨?_, ?_, ?_⟩
  · rw [List.map_append, List.nodup_append']
    refine ⟨hl.distinct, List.nodup_singleton _, List.disjoint_singleton.2 fun c => ?_⟩
    obtain ⟨w, hw, e⟩ := List.mem_map.1 c
    exact hnew w hw e
  · simpa [or_imp, forall_and, ha] using hl.attached
  · simpa [or_imp, forall_and, hlease] using hl.lease

/-- The holder takes a new lease. -/
theorem PartiesOk.renew {s : State} {l : List Waiter} {w : Waiter} {lease : Nat} (hl : PartiesOk s (w :: l))
    (hlease : 1 ≤ lease ∧ lease ≤ 600) : PartiesOk s (⟨w.host, lease⟩ :: l) :=
  ⟨hl.distinct, List.forall_mem_cons.2 (List.forall_mem_cons.1 hl.attached),
    List.forall_mem_cons.2 ⟨hlease, fun y hy => hl.lease y (List.mem_cons_of_mem _ hy)⟩⟩

/-- CLAIM changes nothing, or grants, renews or queues, and so leaves parties that are in order (R108). -/
theorem claimAt_parties {h : HostId} {v : BitVec 16} {s : State} (hs : AuthInv s) (ha : s.attached h = true) :
    (claimAt h v s).1 = s ∨ PartiesOk s (claimAt h v s).1.auth.parties ∧ (claimAt h v s).1.auth.Served := by
  obtain ⟨hok, hserved⟩ := (authInv_iff s).1 hs
  cases hn : leaseOf v with
  | none => exact .inl (by rw [claimAt_of_no_lease hn])
  | some n =>
    have hlease := leaseOf_range hn
    cases hx : s.auth.holding with
    | none =>
      rw [claimAt_of_free hn hx, grant_auth, Authority.parties_of_held rfl, hserved hx]
      rw [Authority.parties_of_free hx, hserved hx] at hok
      exact .inr ⟨hok.join ha hlease (by simp), Authority.served_of_held rfl⟩
    | some x =>
      rw [Authority.parties_of_held hx] at hok
      by_cases hheld : x.host = h
      · subst hheld
        rw [claimAt_of_held hn hx]
        exact .inr ⟨hok.renew hlease, Authority.served_of_held rfl⟩
      · by_cases hw : ∃ w ∈ s.auth.waiting, w.host = h
        · exact .inl (by rw [claimAt_of_waiting hn hx hheld hw])
        · have hnew : ∀ w ∈ (⟨x.host, x.lease⟩ : Waiter) :: s.auth.waiting, w.host ≠ h :=
            List.forall_mem_cons.2 ⟨hheld, fun w hm e => hw ⟨w, hm, e⟩⟩
          have hheld' : (queued x.host h n s).auth.holding = some x := by rw [queued_auth, hx]
          rw [claimAt_of_new hn hx hheld fun w hm e => hw ⟨w, hm, e⟩]
          refine .inr ⟨?_, Authority.served_of_held hheld'⟩
          rw [Authority.parties_of_held hheld', queued_auth]
          exact hok.join ha hlease hnew

theorem claimAt_authInv {h : HostId} {v : BitVec 16} {s : State} (hs : AuthInv s) (ha : s.attached h = true) :
    AuthInv (claimAt h v s).1 := by
  rcases claimAt_parties (v := v) hs ha with e | ⟨hok, hserved⟩
  · rwa [e]
  · have hatt := (claimAt_posts h v s).attached
    exact (authInv_iff _).2 ⟨⟨hok.distinct, fun w hw => (hatt _).trans (hok.attached w hw), hok.lease⟩, hserved⟩

/-! ### The supervisor -/

theorem failover_authInv {m : Nat} {levels : Quad Level} {s : State} (hs : AuthInv s) :
    AuthInv (failover m levels s) :=
  ((takeAdvance_authInv hs).of_other (withSup_frame _ _) (by simp)).of_other (postAll_frame _ _) (by simp)

theorem loseSource_authInv {w : Watched} {levels : Quad Level} {s : State} (hs : AuthInv s) :
    AuthInv (loseSource w levels s) := by
  have failed : AuthInv (s.setWatched w .failed) := hs.of_other (setWatched_frame _ _ _) (by simp)
  unfold loseSource
  split
  · refine endWaitIf_authInv ?_
    split
    · exact failover_authInv failed
    · split
      · exact failed.of_other (withSup_frame _ _) (by simp)
      · exact failed
  · exact hs

theorem storeBridge_authInv {before s : State} {levels : Quad Level} (hs : AuthInv s) :
    AuthInv (storeBridge before levels s) := by
  unfold storeBridge
  split
  · exact takeAdvance_authInv (hs.of_other (withSup_frame _ _) (by simp))
  · exact hs

theorem setSourcesAt_authInv {h : HostId} {v : ListArg} {levels : Quad Level} {s : State} (hs : AuthInv s) :
    AuthInv (setSourcesAt h v levels s).1 :=
  setSourcesAt_keeps hs (fun l => hs.of_other (storeList_frame l s) (by simp)) (fun _ => storeBridge_authInv)
    (fun x u hu => hu.of_other (selectAtStore_frame s x u) (by simp))
    (fun u x hu => hu.of_other (withSup_frame x u) (by simp))

/-! ### The count -/

/-- The parts that a set or step of the count can change (R11, R14). -/
def countParts : List Part := [.count, .pool, .notices, .pins, .cap, .retained]

theorem applyStep_countParts (d : Int) (clearResidue : Bool) (s : State) :
    OnlyChanges countParts s (applyStep d clearResidue s) :=
  ((stepTaken_frame d clearResidue s).mono (by simp [countParts])).trans
    ((applyStep_frame d clearResidue s).mono (by simp [countParts]))

theorem setTimeAt_frame (v : TimeArg) (s : State) : OnlyChanges countParts s (setTimeAt v s).1 := by
  unfold setTimeAt
  split
  · exact .refl _ s
  · split
    · exact (firstSet_frame _ s).mono (by simp [countParts])
    · exact applyStep_countParts _ _ s

theorem stepAt_frame (v : StepArg) (s : State) : OnlyChanges countParts s (stepAt v s).1 := by
  unfold stepAt
  split
  · exact .refl _ s
  · split
    · exact .refl _ s
    · dsimp only
      split
      · exact applyStep_countParts _ _ s
      · exact .refl _ s

/-! ### Every step -/

/-- ATTACH begins a session and ends none. -/
theorem attachAt_authInv {h : HostId} {s : State} (hs : AuthInv s) : AuthInv (attachAt h s).1 :=
  hs.of_auth rfl fun g hg => by
    rw [attachAt, State.setPort_attached]
    split
    · rfl
    · exact hg

theorem mainDomainCleared_authInv (s : State) : AuthInv (mainDomainCleared s) :=
  (authInv_iff _).2 ⟨⟨List.nodup_nil, fun _ hw => (by cases hw), fun _ hw => (by cases hw)⟩, fun _ => rfl⟩

theorem requestsKeep_authInv : RequestsKeep AuthInv := by
  intro h levels r s _ hopen _ hs
  have attached : openToDetached r = false → s.attached h = true := fun hc => by simpa [hc] using hopen
  cases r with
  | attach => exact attachAt_authInv hs
  | detach => exact teardown_authInv hs
  | status => exact hs
  | echo data => exact hs
  | sessions => exact hs
  | readTime => exact hs
  | timeStatus => exact hs
  | setTime v => exact hs.of_other (setTimeAt_frame v s) (by simp [countParts])
  | step v => exact hs.of_other (stepAt_frame v s) (by simp [countParts])
  | slew v => exact hs.of_other (slewAt_frame v s) (by simp)
  | setTrim source trim => exact hs.of_other (setTrimAt_frame source trim s) (by simp)
  | setSources v => exact setSourcesAt_authInv hs
  | sourceStatus => exact hs
  | claim lease => exact claimAt_authInv hs (attached rfl)
  | release => exact releaseAt_authInv hs
  | withdraw => exact withdrawAt_authInv hs
  | authStatus => exact hs
  | alloc => exact hs.of_other (allocAt_frame h s) (by simp)
  | free slot => exact hs.of_other (freeAt_frame h slot s) (by simp)
  | arm v => exact hs.of_other (armAt_frame h v s) (by simp)
  | cancel slot => exact hs.of_other (cancelAt_frame h slot s) (by simp)
  | timerStatus slot => exact (timerStatusAt_state h slot s).symm ▸ hs
  | take => exact hs.of_other (takeAt_frame h s) (by simp)
  | ack => exact hs.of_other (ackAt_frame h s) (by simp)
  | peek => exact hs.of_other (peekAt_frame h s) (by simp)
  | setThreshold v => exact hs.of_other (setThresholdAt_frame h v s) (by simp)
  | bindPin pin idle width => exact hs.of_other (bindPinAt_frame h pin idle width s) (by simp)
  | unbindPin pin => exact hs.of_other (unbindPinAt_frame h pin s) (by simp)
  | drivePin pin action => exact hs.of_other (drivePinAt_frame h pin action s) (by simp)
  | pinStatus pin => exact (pinStatusAt_state pin s).symm ▸ hs
  | setEdges input selection => exact hs.of_other (setEdgesAt_frame input selection s) (by simp)
  | subscribe input cls => exact hs.of_other (subscribeAt_frame h input cls s) (by simp)
  | unsubscribe input => exact hs.of_other (unsubscribeAt_frame h input s) (by simp)
  | readCapture which => exact hs.of_other (readCaptureAt_frame h which s) (by simp)

theorem operationsKeep_authInv : OperationsKeep AuthInv where
  sessions s h x hx hs := hs.of_auth rfl fun g hg => by
    rw [State.setPort_attached]
    split
    · next e => rw [hx]; exact e ▸ hg
    · exact hg
  pending _ _ hs := hs
  power _ _ hs := hs
  retained _ _ hs := hs
  requests := requestsKeep_authInv
  advance _ s hs := takeAdvance_authInv (hs.of_other (slewApplied_frame s) (by simp))
  expireHead s hs := hs.of_other (expireReached_onlyChanges _ _ _ s) (by simp)
  endPulse p s hs := hs.of_other (endPulse_frame p s) (by simp)
  takeCapture s hs := hs.of_other (takeCapture_frame s) (by simp)
  expireLease _ hs := expireLease_authInv hs
  superviseCycle s hs := hs.of_other (superviseCycle_frame s) (by simp)
  setWatched w x s hs := hs.of_other (setWatched_frame w x s) (by simp)
  loseSource _ _ _ hs := loseSource_authInv hs
  qualify w s hs := hs.of_frame (qualify_frame w s) (by simp) (qualify_posts w s).attached
  endHoldOff w s hs := hs.of_other (endHoldOff_frame w s) (by simp)
  timeOutWait s hs := hs.of_frame (timeOutWait_frame s) (by simp) (timeOutWait_posts s).attached
  teardown _ _ hs := teardown_authInv hs
  mainDomainCleared s _ := mainDomainCleared_authInv s
  mainReset s _ := mainDomainCleared_authInv s

end Sys2Proof.Machine

namespace Sys2Proof.Proofs

open Sys2Proof.Machine

/-- Settles O5: the holder and the waiters are one list of distinct attached hosts, to which CLAIM adds a host that is
not in it, and which the other operations only shorten. -/
theorem stepKeepsAuthority : Obligations.StepKeepsAuthority := by
  unfold Obligations.StepKeepsAuthority
  exact fun _ _ hs h => operationsKeep_authInv.step hs h

end Sys2Proof.Proofs
end

section
/-! The refusals of validation that need no block: NOT_ATTACHED and NOT_AUTHORITY (R118, R156 steps 3 and 4). -/

namespace Sys2Proof.Machine

/-! ### Host commands as rows -/

/-- A host command is the row of its request, and is well-formed when its request is (log 3). -/
theorem hostCommand_row {i : Instr} {h : HostId} {q : Byte} {r : Request} {levels : Quad Level}
    (e : hostCommand i = some (h, q, r, levels)) :
    (∀ s, exec i s = .next (requestRow h q r levels s)) ∧ i.wellFormed = r.wellFormed := by
  cases i with
  | poll | send | fetch | advance | expiry | pulseEnd | capture | leaseExpiry | rcCycle | sourceEdge | sourceLoss
  | qualification | holdOffEnd | waitTimeout | hrstAssert | mainResetConditionBegin | resetnRelease | powerUpDelayEnd
  | vmainLoss | lpCycle | retainedStateLoss | coldStart | hrstRelease | vmainRise => cases e
  | _ =>
    cases e
    exact ⟨fun _ => rfl, rfl⟩

/-! ### Validation -/

/-- The authority-only commands by their opcodes (R118). -/
theorem authorityOnly_of_opcode {r : Request} (h : opcodeOf r ∈ ([0x12, 0x13, 0x14, 0x20, 0x21, 0x70] : List Byte)) :
    authorityOnly r = true := by
  cases r with
  | setTime | step | slew | setTrim | setSources | setEdges => rfl
  | _ => simp [opcodeOf] at h

/-- The commands open to a detached host (R156 step 3). -/
theorem openToDetached_of_ne {r : Request} (ha : r ≠ .attach) (hs : r ≠ .status) : openToDetached r = false := by
  cases r with
  | attach => exact absurd rfl ha
  | status => exact absurd rfl hs
  | _ => rfl

section Validate

variable {h : HostId} {q : Byte} {r : Request} {levels : Quad Level} {s : State}

theorem validate_of_detached (hw : r.wellFormed = true) (hd : s.attached h = false) (ho : openToDetached r = false) :
    validate h levels r s = (s, some (.bare .notAttached)) := by
  simp [validate, hw, hd, ho]

theorem validate_of_not_holder (hw : r.wellFormed = true) (ha : s.attached h = true) (hr : authorityOnly r = true)
    (hh : holder s ≠ some h) : validate h levels r s = (s, some (.bare .notAuthority)) := by
  simp [validate, hw, ha, hr, hh]

/-- A request that validation refuses is answered so, and nothing outside its port changes (R156). -/
theorem request_refused {x : Result} (hr : Ready h (opcodeOf r) q s)
    (hv : validate h levels r (requestTaken h q r s) = (requestTaken h q r s, some (.bare x))) :
    ∃ t, (Host.Outcome.next (requestRow h q r levels s) : Host.Outcome State Fault Refusal) = .next t ∧
      Answers h (opcodeOf r) q x [] t ∧ RequestFrame h [] s t := by
  obtain ⟨hf, hn⟩ := requestTaken_flags h q r s
  rw [requestRow_of_ready hr, hv]
  exact ⟨_, rfl, answers_holdAnswer hf hn, requestFrame_holdAnswer (.refl _ _) rfl⟩

end Validate

end Sys2Proof.Machine

namespace Sys2Proof.Proofs

open Sys2Proof.Machine

/-- Settles O17: both refusals are decided on the request, the session and the holder. -/
theorem refusedAtValidation : Obligations.RefusedAtValidation := by
  unfold Obligations.RefusedAtValidation
  intro i h q r levels s hi hwf hr
  obtain ⟨hexec, hwell⟩ := hostCommand_row hi
  have hw : r.wellFormed = true := hwell ▸ hwf
  rw [hexec]
  refine ⟨fun hd hattach hstatus => ?_, fun ha hop hh => ?_⟩
  · exact request_refused hr
      (validate_of_detached hw (by rwa [requestTaken_attached]) (openToDetached_of_ne hattach hstatus))
  · exact request_refused hr
      (validate_of_not_holder hw (by rwa [requestTaken_attached]) (authorityOnly_of_opcode hop) hh)

end Sys2Proof.Proofs
end

section
/-! CLAIM, RELEASE, WITHDRAW and AUTH_STATUS as requests: the answers, and what they leave (R108, R110 to R112,
R117). -/

namespace Sys2Proof.Machine

/-! ### RELEASE, WITHDRAW and AUTH_STATUS by their cases -/

/-- The holder after a hand-over (R111). -/
theorem holder_grantNext (s : State) : holder (grantNext s) = s.auth.waiting.head?.map (·.host) := by
  cases hw : s.auth.waiting with
  | nil =>
    rw [grantNext_of_nil hw]
    rfl
  | cons w rest =>
    rw [grantNext_of_cons hw, holder, grant_auth]
    rfl

/-- A hand-over that finds no wait of the old holder only grants (R36, R111). -/
theorem handOver_of_no_wait {old : HostId} {torn : Bool} {s : State} (hw : ∀ w, s.sup.wait = some w → w.host ≠ old) :
    handOver old torn s = grantNext s := by
  have hsup : (grantNext s).sup = s.sup := by
    obtain ⟨-, hsup, -⟩ := grantNext_frame s
    exact hsup (by simp)
  have absent : ¬((grantNext s).sup.wait.any fun w => w.host = old) = true := by
    rw [hsup]
    cases hx : s.sup.wait with
    | none => exact Bool.false_ne_true
    | some w => simpa using hw w hx
  exact if_neg absent

theorem releaseAt_of_holder {h : HostId} {s : State} (hh : holder s = some h)
    (hw : ∀ w, s.sup.wait = some w → w.host ≠ h) :
    releaseAt h s = (grantNext s, .okWith [hostCode (s.auth.waiting.head?.map (·.host))]) := by
  rw [releaseAt, if_pos hh, handOver_of_no_wait hw]
  dsimp only
  rw [holder_grantNext]

theorem releaseAt_of_not_holder {h : HostId} {s : State} (hh : holder s ≠ some h) :
    releaseAt h s = (s, .bare .notAuthority) := if_neg hh

theorem leaveWaiting_of_split {h : HostId} {ahead behind : List Waiter} {asked : Nat} {s : State}
    (hw : s.auth.waiting = ahead ++ ⟨h, asked⟩ :: behind) (hother : ∀ w ∈ ahead ++ behind, w.host ≠ h) :
    leaveWaiting h s = { s with auth := { s.auth with waiting := ahead ++ behind } } := by
  have hfilter : (ahead ++ ⟨h, asked⟩ :: behind).filter (fun w => decide (w.host ≠ h)) = ahead ++ behind := by
    rw [List.filter_append, List.filter_cons_of_neg (by simp), ← List.filter_append]
    exact List.filter_eq_self.2 fun w hm => by simpa using hother w hm
  rw [leaveWaiting, hw, hfilter]

theorem withdrawAt_of_split {h : HostId} {ahead behind : List Waiter} {asked : Nat} {s : State}
    (hw : s.auth.waiting = ahead ++ ⟨h, asked⟩ :: behind) (hother : ∀ w ∈ ahead ++ behind, w.host ≠ h) :
    withdrawAt h s = ({ s with auth := { s.auth with waiting := ahead ++ behind } },
      .okWith (waitingBytes (ahead ++ behind))) := by
  have placed : position s h = some (ahead.length + 1) :=
    position_of_split hw fun w hm => hother w (List.mem_append_left _ hm)
  rw [withdrawAt, placed, leaveWaiting_of_split hw hother]
  rfl

theorem withdrawAt_of_absent {h : HostId} {s : State} (hw : ∀ w ∈ s.auth.waiting, w.host ≠ h) :
    withdrawAt h s = (s, .bare .state) := by
  rw [withdrawAt, position_of_absent hw]
  rfl

/-- The lease of the holder and what is left of it, in milliseconds, rounded up, or six bytes 0 (R117). -/
def leaseBytes : Option Holding → List Byte
  | some x => bytesOf 2 x.lease ++ bytesOf 4
      ((x.lease * 1000000000 * 4294967296 - x.elapsed + (1000000 * 4294967296 - 1)) / (1000000 * 4294967296))
  | none => List.replicate 6 0

/-- The two fields of the lease are absent together (R117, R181). -/
theorem leaseBytes_eq (o : Option Holding) :
    Field.bytes (.maybe 2 (o.map fun x => bytesOf 2 x.lease)) ++ Field.bytes (.maybe 4 (o.map fun x =>
      bytesOf 4 (remainingUp (1000000 * fine) (leaseLength x.lease) x.elapsed))) = leaseBytes o := by
  cases o <;> rfl

/-- The presence byte of AUTH_STATUS: the lease and what is left of it, and the position (R181). -/
theorem authPresence (held placed : Bool) : BitVec.ofNat 8 (bitsToNat [held, held, placed]) =
    (if held then 3 else 0) + (if placed then 4 else 0) := by
  revert held placed
  decide

/-- The payload of AUTH_STATUS: which fields are present, the holder, the lease, the waiting list and the position
(R117). -/
theorem authStatusAt_eq (h : HostId) (s : State) : authStatusAt h s = (s, .okWith
    ([(if s.auth.holding.isSome then 3 else 0) + (if (position s h).isSome then 4 else 0), hostCode (holder s),
      flagCode (holder s = some h)] ++ leaseBytes s.auth.holding ++ waitingBytes s.auth.waiting ++
      byteOf ((position s h).getD 0))) := by
  have place : Field.bytes (.maybe 1 ((position s h).map byteOf)) = byteOf ((position s h).getD 0) := by
    cases position s h <;> rfl
  rw [authStatusAt, ← leaseBytes_eq, ← place, ← authPresence]
  simp [payloadOfFields, presenceBits, Field.bytes]

/-! ### The requests -/

theorem OnlyChanges.ports_eq {ps : List Part} {s t : State} (hf : OnlyChanges ps s t) (hp : .ports ∉ ps) :
    t.ports = s.ports := by
  obtain ⟨-, -, -, -, -, -, -, hports, -⟩ := hf
  exact hports hp

/-- A request of an attached host, the holder where the command asks for it, that is answered in its own event. -/
theorem takes_held {h : HostId} {q : Byte} {r : Request} {levels : Quad Level} {s t : State} {res : Result}
    {payload : List Byte} {parts : List Part} (ht : Takes h (opcodeOf r) q s) (hw : r.wellFormed = true)
    (hh : authorityOnly r = true → holder s = some h)
    (hc : carryOut h levels r (requestTaken h q r s) = (t, some ⟨res, payload⟩))
    (ho : OnlyChanges parts (requestTaken h q r s) t) (hp : .ports ∉ parts) :
    (Host.Outcome.next (requestRow h q r levels s) : Host.Outcome State Fault Refusal) =
        .next (holdAnswer h (opcodeOf r) q ⟨res, payload⟩ t) ∧
      RequestFrame h parts s (holdAnswer h (opcodeOf r) q ⟨res, payload⟩ t) ∧
      Answers h (opcodeOf r) q res payload (holdAnswer h (opcodeOf r) q ⟨res, payload⟩ t) := by
  obtain ⟨hr, ha⟩ := ht
  exact request_held hr hw (.inl ha) hh hc ho (ho.ports_eq hp)

section Seen

variable {h g : HostId} {op q : Byte} {r : Request} {x : Reply} {s t : State}

/-- A post seen through the request that makes it. -/
theorem PostedTo.of_request {n : Notice} (hp : PostedTo g n (requestTaken h q r s) t) :
    PostedTo g n s (holdAnswer h op q x t) := fun k => by
  rw [holdAnswer_box, hp, requestTaken_attached]
  rfl

/-- A hand-over seen through the request that makes it. -/
theorem HandedOver.of_request {waiting : List Waiter} {apart : HostId → Prop}
    (ht : HandedOver waiting apart (requestTaken h q r s) t) : HandedOver waiting apart s (holdAnswer h op q x t) := by
  obtain ⟨hnil, hcons⟩ := ht
  refine ⟨hnil, fun w rest e => ?_⟩
  obtain ⟨hauth, hothers⟩ := hcons w rest e
  refine ⟨hauth, fun k hk => ?_⟩
  rw [holdAnswer_box, hothers k hk, requestTaken_attached]
  rfl

end Seen

/-- Who joins the waiting list changes the arbiter and the holder's queue (R108). -/
theorem queued_frame (g h : HostId) (lease : Nat) (s : State) : OnlyChanges [.auth, .notices] s (queued g h lease s) :=
  ((withAuth_frame _ s).mono (by simp)).trans ((post_frame _ _ _).mono (by simp))

theorem queued_postedTo (g h : HostId) (lease : Nat) (s : State) :
    PostedTo g (systemNotice .authWanted s.count.time (some (.host h)) none (conditionFlags s)) s
      (queued g h lease s) := post_postedTo _ _ _

theorem holder_queued (g h : HostId) (lease : Nat) (s : State) : holder (queued g h lease s) = holder s := by
  rw [holder, queued_auth]
  rfl

end Sys2Proof.Machine

namespace Sys2Proof.Proofs

open Sys2Proof.Machine

/-- Settles O44: CLAIM by its cases, the position and the lease read off the first place of the host in the list. -/
theorem claimAsksForAuthority : Obligations.ClaimAsksForAuthority := by
  unfold Obligations.ClaimAsksForAuthority
  intro h q v s ht lease
  refine ⟨fun hout => ?_, fun hlo hhi => ⟨fun hfree => ?_, fun hh => ?_, fun g hg hne hw => ?_,
    fun g ahead asked behind hg hne hw hfirst => ?_⟩⟩
  · exact boxRequest_unchanged ht rfl rfl (congrArg atOnce (claimAt_of_no_lease (leaseOf_out_of_range hout)))
  · obtain ⟨e, hf, hx⟩ := takes_held (r := .claim v) ht rfl (fun c => by cases c)
      (congrArg atOnce (claimAt_of_free (leaseOf_of_range hlo hhi) hfree)) (grant_frame _ _ _) (by simp)
    exact ⟨_, e, hf, by rw [holdAnswer_auth, grant_auth]; rfl, (grant_postedTo _ _ _).of_request, hx⟩
  · obtain ⟨x, hx, rfl⟩ := holding_of_holder hh
    obtain ⟨e, hf, ha⟩ := takes_held (r := .claim v) ht rfl (fun c => by cases c)
      (congrArg atOnce (claimAt_of_held (leaseOf_of_range hlo hhi) hx)) (withAuth_frame _ _) (by simp)
    exact ⟨_, e, hf, rfl, ha⟩
  · obtain ⟨x, hx, rfl⟩ := holding_of_holder hg
    have reply : queuedReply h (queued x.host h v.toNat (requestTaken h q (.claim v) s)) = _ :=
      queuedReply_of_split (by rw [queued_auth]; rfl) hw
    rw [holder_queued, requestTaken_holder, hg] at reply
    have claimed := claimAt_of_new (s := requestTaken h q (.claim v) s) (leaseOf_of_range hlo hhi) hx hne hw
    rw [reply] at claimed
    obtain ⟨e, hf, ha⟩ := takes_held (r := .claim v) ht rfl (fun c => by cases c) (congrArg atOnce claimed)
      (queued_frame _ _ _ _) (by simp)
    exact ⟨_, e, hf, by rw [holdAnswer_auth, queued_auth]; rfl, (queued_postedTo _ _ _ _).of_request, ha⟩
  · obtain ⟨x, hx, rfl⟩ := holding_of_holder hg
    have waits : ∃ w ∈ s.auth.waiting, w.host = h := ⟨⟨h, asked⟩, by simp [hw], rfl⟩
    have reply : queuedReply h (requestTaken h q (.claim v) s) = _ := queuedReply_of_split hw hfirst
    rw [requestTaken_holder, hg] at reply
    have claimed := claimAt_of_waiting (s := requestTaken h q (.claim v) s) (leaseOf_of_range hlo hhi) hx hne waits
    rw [reply] at claimed
    exact boxRequest_unchanged (r := .claim v) ht rfl rfl (congrArg atOnce claimed)

/-- Settles O45: without a wait of the holder, RELEASE is the hand-over alone. -/
theorem releaseHandsOver : Obligations.ReleaseHandsOver := by
  unfold Obligations.ReleaseHandsOver
  intro h q s ht
  refine ⟨fun hh hw => ?_, fun hh => ?_⟩
  · obtain ⟨e, hf, hx⟩ := takes_held (r := .release) ht rfl (fun c => by cases c)
      (congrArg atOnce (releaseAt_of_holder (s := requestTaken h q .release s) hh hw)) (grantNext_frame _) (by simp)
    exact ⟨_, e, hf, (grantNext_handedOver (requestTaken h q .release s)).of_request, hx⟩
  · exact boxRequest_unchanged (r := .release) ht rfl rfl
      (congrArg atOnce (releaseAt_of_not_holder (s := requestTaken h q .release s) hh))

/-- Settles O46: WITHDRAW strikes the caller's place out of the list, AUTH_STATUS only reads. -/
theorem withdrawAndAuthStatus : Obligations.WithdrawAndAuthStatus := by
  unfold Obligations.WithdrawAndAuthStatus
  intro h q s
  refine ⟨fun ht => ⟨fun ahead asked behind hw hother => ?_, fun hw => ?_⟩, fun ht => ?_⟩
  · obtain ⟨e, hf, hx⟩ := takes_held (r := .withdraw) ht rfl (fun c => by cases c)
      (congrArg atOnce (withdrawAt_of_split (s := requestTaken h q .withdraw s) hw hother)) (withAuth_frame _ _) (by simp)
    exact ⟨_, e, hf, rfl, hx⟩
  · exact boxRequest_unchanged (r := .withdraw) ht rfl rfl
      (congrArg atOnce (withdrawAt_of_absent (s := requestTaken h q .withdraw s) hw))
  · have report := authStatusAt_eq h (requestTaken h q .authStatus s)
    rw [position, Option.isSome_map] at report
    exact boxRequest_unchanged (r := .authStatus) ht rfl rfl (congrArg atOnce report)

end Sys2Proof.Proofs
end

section
/-! SET_EDGES and SUBSCRIBE: one field of one capture input written, or RANGE (R137, R142). -/

namespace Sys2Proof.Machine

/-! ### The operands -/

/-- Capture inputs are named as pins are (R179). -/
theorem inputOf_of_val {b : Byte} {i : CapId} (h : b.toNat = i.val) : inputOf b = some i := pinOf_eq_some.2 h

theorem inputOf_out_of_range {b : Byte} (h : 4 ≤ b.toNat) : inputOf b = none := dif_neg (Nat.not_lt.2 h)

theorem selectionOf_selectionCode (x : EdgeSelection) : selectionOf (selectionCode x) = some x := by
  cases x <;> rfl

theorem selectionOf_out_of_range {b : Byte} (h : 4 ≤ b.toNat) : selectionOf b = none := by
  have other : ∀ c : Byte, c.toNat < 4 → b ≠ c := fun c hc e => by rw [e] at h; omega
  rw [selectionOf, if_neg (other 0 (by decide)), if_neg (other 1 (by decide)), if_neg (other 2 (by decide)),
    if_neg (other 3 (by decide))]

theorem classOf_of_range {b : Byte} (h : b.toNat ≤ 3) : classOf b = some b.toNat := if_pos h

theorem classOf_out_of_range {b : Byte} (h : 4 ≤ b.toNat) : classOf b = none := if_neg (by omega)

/-! ### The commands -/

section Commands

variable {h : HostId} {input b : Byte} {i : CapId} {s : State}

theorem setEdgesAt_of_range {x : EdgeSelection} (hi : input.toNat = i.val) :
    setEdgesAt input (selectionCode x) s =
      (s.setInput i { s.input i with selection := x }, .okWith [selectionCode (s.input i).selection]) := by
  rw [setEdgesAt, inputOf_of_val hi, selectionOf_selectionCode]

theorem setEdgesAt_out_of_range (hout : 4 ≤ input.toNat ∨ 4 ≤ b.toNat) : setEdgesAt input b s = (s, .bare .range) := by
  rcases hout with hout | hout
  · rw [setEdgesAt, inputOf_out_of_range hout]
  · rw [setEdgesAt, selectionOf_out_of_range hout]
    cases inputOf input <;> rfl

/-- Whether the caller was subscribed, with the class replaced (R142). -/
def alreadyBytes : Option Nat → List Byte
  | none => [0, 0, 0]
  | some old => [1] ++ byteOf old ++ [1]

theorem subscribeAt_of_range (hi : input.toNat = i.val) (hb : b.toNat ≤ 3) :
    subscribeAt h input b s =
      (s.setInput i { s.input i with subscribers := (s.input i).subscribers.set h (some b.toNat) },
        .okWith (alreadyBytes ((s.input i).subscribers.get h))) := by
  rw [subscribeAt, inputOf_of_val hi, classOf_of_range hb]
  dsimp only
  cases (s.input i).subscribers.get h <;> rfl

theorem subscribeAt_out_of_range (hout : 4 ≤ input.toNat ∨ 4 ≤ b.toNat) :
    subscribeAt h input b s = (s, .bare .range) := by
  rcases hout with hout | hout
  · rw [subscribeAt, inputOf_out_of_range hout]
  · rw [subscribeAt, classOf_out_of_range hout]
    cases inputOf input <;> rfl

end Commands

/-- A request whose command writes one capture input. -/
theorem inputRequest_held {h : HostId} {q : Byte} {r : Request} {i : CapId} {x : CapInput} {s : State}
    {payload : List Byte} (ht : Takes h (opcodeOf r) q s) (hw : r.wellFormed = true)
    (hh : authorityOnly r = true → holder s = some h)
    (hc : carryOut h noLevels r (requestTaken h q r s) =
      atOnce ((requestTaken h q r s).setInput i x, .okWith payload)) :
    ∃ t, (Host.Outcome.next (requestRow h q r noLevels s) : Host.Outcome State Fault Refusal) = .next t ∧
      RequestFrame h [.cap] s t ∧ (∀ j, t.input j = if j = i then x else s.input j) ∧
      t.cap = { s.cap with inputs := t.cap.inputs } ∧ Answers h (opcodeOf r) q .ok payload t := by
  obtain ⟨e, hf, ha⟩ := takes_held ht hw hh hc (setInput_frame _ _ _) (by simp)
  refine ⟨_, e, hf, fun j => ?_, rfl, ha⟩
  rw [holdAnswer_input, State.setInput_input, requestTaken_input]

end Sys2Proof.Machine

namespace Sys2Proof.Proofs

open Sys2Proof.Machine

/-- Settles O55: each command writes one field of the input that it names, or is out of range. -/
theorem setEdgesAndSubscribe : Obligations.SetEdgesAndSubscribe := by
  unfold Obligations.SetEdgesAndSubscribe
  intro h q input s
  refine ⟨fun ⟨ht, hh⟩ selection => ⟨fun hout => ?_, fun i x hi hx => ?_⟩,
    fun ht cls => ⟨fun hout => ?_, fun i hi hcls => ?_⟩⟩
  · obtain ⟨t, e, hx, hf⟩ := holder_refused (r := .setEdges input selection) ⟨ht, hh⟩ rfl
      (congrArg atOnce (setEdgesAt_out_of_range hout))
    exact ⟨t, e, hf, hx⟩
  · subst hx
    exact inputRequest_held (r := .setEdges input (selectionCode x)) ht rfl (fun _ => hh)
      (congrArg atOnce (setEdgesAt_of_range hi))
  · exact boxRequest_unchanged (r := .subscribe input cls) ht rfl rfl
      (congrArg atOnce (subscribeAt_out_of_range hout))
  · exact inputRequest_held (r := .subscribe input cls) ht rfl (fun c => by cases c)
      (congrArg atOnce (subscribeAt_of_range hi hcls))

end Sys2Proof.Proofs
end

section
/-! BIND_PIN and UNBIND_PIN: one pin bound or unbound, or the refusal (R123, R124). -/

namespace Sys2Proof.Machine

/-! ### The operands -/

theorem pinOf_out_of_range {b : Byte} (h : 4 ≤ b.toNat) : pinOf b = none := dif_neg (Nat.not_lt.2 h)

theorem levelOf_levelCode (x : Level) : levelOf (levelCode x) = some x := by cases x <;> rfl

theorem levelOf_out_of_range {b : Byte} (h : 2 ≤ b.toNat) : levelOf b = none := by
  have other : ∀ c : Byte, c.toNat < 2 → b ≠ c := fun c hc e => by rw [e] at h; omega
  rw [levelOf, if_neg (other 0 (by decide)), if_neg (other 1 (by decide))]

/-- The codes 0 and 1 are those of the two levels (R179). -/
theorem levelCode_of_le_one {b : Byte} (h : b.toNat ≤ 1) : levelCode (if b = 0 then .low else .high) = b := by
  rcases (toNat_le_one_iff b).1 h with rfl | rfl <;> rfl

theorem widthOf_of_ne_zero {w : BitVec 16} (h : w ≠ 0) : widthOf w = some w.toNat :=
  if_pos (Nat.one_le_iff_ne_zero.2 fun e => h (BitVec.eq_of_toNat_eq e))

/-! ### BIND_PIN -/

/-- The record that BIND_PIN writes: the pin at its idle level, without a pulse (R123). -/
def freshPin (h : HostId) (idle : Level) (width now : Nat) : PinRecord :=
  ⟨h, idle, idle, width, none, some ⟨none, .bindPin, now⟩⟩

section BindPin

variable {h : HostId} {pin idle : Byte} {width : BitVec 16} {p : PinId} {s : State}

theorem bindPinAt_out_of_range (hout : 4 ≤ pin.toNat ∨ 2 ≤ idle.toNat ∨ width = 0) :
    bindPinAt h pin idle width s = (s, .bare .range) := by
  rcases hout with hout | hout | rfl
  · rw [bindPinAt, pinOf_out_of_range hout]
  · rw [bindPinAt, levelOf_out_of_range hout]
    cases pinOf pin <;> rfl
  · rw [bindPinAt, show widthOf 0 = none from rfl]
    cases pinOf pin <;> cases levelOf idle <;> rfl

theorem bindPinAt_of_taken {level : Level} {r : PinRecord} (hp : pin.toNat = p.val) (hw : width ≠ 0)
    (hr : s.pin p = some r) (ho : r.owner ≠ h) :
    bindPinAt h pin (levelCode level) width s = (s, ⟨.pinTaken, [hostCode (some r.owner)]⟩) := by
  rw [bindPinAt, pinOf_eq_some.2 hp, levelOf_levelCode, widthOf_of_ne_zero hw]
  dsimp only
  rw [hr]
  exact if_neg ho

/-- The answer to a binding: the fresh record, which has a last action and no pulse (R121, R181). -/
theorem payloadOfFields_freshPin (level : Level) (w now : Nat) :
    payloadOfFields (pinRecordFields (freshPin h level w now)) =
      [2, hostCode (some h), levelCode level, levelCode level] ++ bytesOf 2 w ++ List.replicate 9 0 ++
        [Config.bindPinActionCode, Config.bindPinOriginCode] ++ timeBytes now := by
  simp [payloadOfFields, pinRecordFields, freshPin, presenceBits, bitsToNat, Field.bytes, lastActionBytes,
    lastActionCode, actionOriginCode]

theorem bindPinAt_of_own {level : Level} (hp : pin.toNat = p.val) (hw : width ≠ 0)
    (hown : ∀ r, s.pin p = some r → r.owner = h) :
    bindPinAt h pin (levelCode level) width s =
      (s.setPin p (some (freshPin h level width.toNat s.count.time)), .okWith
        (payloadOfFields (pinRecordFields (freshPin h level width.toNat s.count.time)) ++
          [flagCode (s.pin p).isSome])) := by
  rw [bindPinAt, pinOf_eq_some.2 hp, levelOf_levelCode, widthOf_of_ne_zero hw]
  dsimp only
  cases hr : s.pin p with
  | none => rfl
  | some r => exact if_pos (hown r hr)

end BindPin

/-! ### UNBIND_PIN -/

/-- The slots of the ARMED timers of `h` whose pin action names `p`, lowest first (R124). -/
def slotsBinding (h : HostId) (p : PinId) (s : State) : List Slot :=
  allSlots.filter fun i => (s.timer i).any fun x =>
    decide (x.owner = h) && x.armed.isSome && x.action.any fun u => u.pin = p

/-- The model finds them among those of all hosts. -/
theorem slotsNaming_filter_owner (h : HostId) (p : PinId) (s : State) :
    ((slotsNaming s p).filter fun i => (s.timer i).any fun t => t.owner = h) = slotsBinding h p s := by
  rw [slotsNaming, List.filter_filter, slotsBinding]
  congr 1
  funext i
  cases s.timer i with
  | none => rfl
  | some x => simp only [armedNaming, Option.any_some, Bool.and_assoc]

/-- The next state and answer of UNBIND_PIN on the caller's pin `p`, by the slots that bind it: the pin is kept while
an ARMED timer of the caller names it, and is unbound otherwise (R124). -/
def unbindOutcome (p : PinId) (r : PinRecord) (s : State) : List Slot → State × Reply
  | [] => (s.setPin p none, .okWith [levelCode r.level])
  | i :: more => (s, ⟨.inUse, byteOf (more.length + 1) ++ byteOf i.val⟩)

section UnbindPin

variable {h : HostId} {pin : Byte} {p : PinId} {r : PinRecord} {s : State}

theorem unbindPinAt_out_of_range (hout : 4 ≤ pin.toNat) : unbindPinAt h pin s = (s, .bare .range) := by
  rw [unbindPinAt, pinOf_out_of_range hout]

theorem unbindPinAt_of_not_owner (hp : pin.toNat = p.val) (hother : ∀ r, s.pin p = some r → r.owner ≠ h) :
    unbindPinAt h pin s = (s, .bare .notOwner) := by
  rw [unbindPinAt, pinOf_eq_some.2 hp]
  dsimp only
  cases hr : s.pin p with
  | none => rfl
  | some r => exact if_pos (hother r hr)

theorem unbindPinAt_of_owner (hp : pin.toNat = p.val) (hr : s.pin p = some r) (ho : r.owner = h) :
    unbindPinAt h pin s = unbindOutcome p r s (slotsBinding h p s) := by
  rw [unbindPinAt, pinOf_eq_some.2 hp]
  dsimp only
  rw [hr]
  dsimp only
  rw [if_neg (not_not_intro ho), slotsNaming_filter_owner]
  cases slotsBinding h p s <;> rfl

theorem unbindPinAt_of_in_use {i : Slot} {more : List Slot} (hp : pin.toNat = p.val) (hr : s.pin p = some r)
    (ho : r.owner = h) (hu : slotsBinding h p s = i :: more) :
    unbindPinAt h pin s = (s, ⟨.inUse, byteOf (slotsBinding h p s).length ++ byteOf i.val⟩) := by
  rw [unbindPinAt_of_owner hp hr ho, hu]
  rfl

theorem unbindPinAt_of_unused (hp : pin.toNat = p.val) (hr : s.pin p = some r) (ho : r.owner = h)
    (hu : slotsBinding h p s = []) : unbindPinAt h pin s = (s.setPin p none, .okWith [levelCode r.level]) := by
  rw [unbindPinAt_of_owner hp hr ho, hu]
  rfl

end UnbindPin

/-! ### The requests -/

/-- A request whose command writes one pin. -/
theorem pinRequest_held {h : HostId} {q : Byte} {r : Request} {p : PinId} {x : Option PinRecord} {s : State}
    {payload : List Byte} (ht : Takes h (opcodeOf r) q s) (hw : r.wellFormed = true) (hh : authorityOnly r = false)
    (hc : carryOut h noLevels r (requestTaken h q r s) =
      atOnce ((requestTaken h q r s).setPin p x, .okWith payload)) :
    ∃ t, (Host.Outcome.next (requestRow h q r noLevels s) : Host.Outcome State Fault Refusal) = .next t ∧
      RequestFrame h [.pins] s t ∧ (∀ k, t.pin k = if k = p then x else s.pin k) ∧
      Answers h (opcodeOf r) q .ok payload t := by
  obtain ⟨e, hf, ha⟩ :=
    takes_held ht hw (fun c => absurd (hh.symm.trans c) (by decide)) hc (setPin_frame _ _ _) (by simp)
  refine ⟨_, e, hf, fun k => ?_, ha⟩
  rw [holdAnswer_pin, State.setPin_pin, requestTaken_pin]

end Sys2Proof.Machine

namespace Sys2Proof.Proofs

open Sys2Proof.Machine

/-- BIND_PIN (R123), the first half of O41. -/
theorem bindPin_outcome {h : HostId} {q pin idle : Byte} {width : BitVec 16} {p : PinId} {s : State}
    (ht : Takes h 0x60 q s) (hp : pin.toNat = p.val) (hidle : idle.toNat ≤ 1) (hw : width ≠ 0) :
    (∀ r, s.pin p = some r → r.owner ≠ h →
      ∃ t, exec (.bindPin h q pin idle width) s = .next t ∧ RequestFrame h [] s t ∧
        Answers h 0x60 q .pinTaken [hostCode (some r.owner)] t) ∧
    ((∀ r, s.pin p = some r → r.owner = h) →
      ∃ t, exec (.bindPin h q pin idle width) s = .next t ∧ RequestFrame h [.pins] s t ∧
        (∀ k, t.pin k = if k = p
          then some (freshPin h (if idle = 0 then .low else .high) width.toNat s.count.time) else s.pin k) ∧
        Answers h 0x60 q .ok
          ([2, hostCode (some h), idle, idle] ++ bytesOf 2 width.toNat ++ List.replicate 9 0 ++
            [Config.bindPinActionCode, Config.bindPinOriginCode] ++ timeBytes s.count.time ++
            [flagCode (s.pin p).isSome]) t) := by
  have hcode := levelCode_of_le_one hidle
  generalize (if idle = 0 then Level.low else .high) = level at hcode ⊢
  subst hcode
  refine ⟨fun r hr ho => ?_, fun hown => ?_⟩
  · exact boxRequest_unchanged (r := .bindPin pin (levelCode level) width) ht rfl rfl
      (congrArg atOnce (bindPinAt_of_taken hp hw hr ho))
  · rw [← payloadOfFields_freshPin]
    exact pinRequest_held (r := .bindPin pin (levelCode level) width) ht rfl rfl
      (congrArg atOnce (bindPinAt_of_own hp hw hown))

/-- Settles O41: each command by the cases of its rule, on the caller's pin. -/
theorem bindAndUnbindPin : Obligations.BindAndUnbindPin := by
  unfold Obligations.BindAndUnbindPin
  intro h q pin s
  refine ⟨fun ht idle width => ⟨fun hout => ?_, fun p hp hidle hw => bindPin_outcome ht hp hidle hw⟩,
    fun ht => ⟨fun hout => ?_, fun p hp => ⟨fun hother => ?_, fun r hr ho => ⟨fun i more hu => ?_, fun hu => ?_⟩⟩⟩⟩
  · exact boxRequest_unchanged (r := .bindPin pin idle width) ht rfl rfl
      (congrArg atOnce (bindPinAt_out_of_range hout))
  · exact boxRequest_unchanged (r := .unbindPin pin) ht rfl rfl (congrArg atOnce (unbindPinAt_out_of_range hout))
  · exact boxRequest_unchanged (r := .unbindPin pin) ht rfl rfl
      (congrArg atOnce (unbindPinAt_of_not_owner (s := requestTaken h q (.unbindPin pin) s) hp hother))
  · exact boxRequest_unchanged (r := .unbindPin pin) ht rfl rfl
      (congrArg atOnce (unbindPinAt_of_in_use (s := requestTaken h q (.unbindPin pin) s) hp hr ho hu))
  · exact pinRequest_held (r := .unbindPin pin) ht rfl rfl
      (congrArg atOnce (unbindPinAt_of_unused (s := requestTaken h q (.unbindPin pin) s) hp hr ho hu))

end Sys2Proof.Proofs
end

section
/-! DRIVE_PIN and PULSE_END: an action applied to the caller's pin, a reached pulse end (R125, R127 to R129). -/

namespace Sys2Proof.Machine

/-! ### The actions (R127, R128) -/

/-- The level that an action sets. -/
def PinRecord.levelAfter (r : PinRecord) : PinAction → Level
  | .set => .high
  | .clear => .low
  | .toggle => r.level.flip
  | .pulse => r.idle.flip

/-- The end of the pulse that an action at count `now` starts. -/
def PinRecord.pulseAfter (r : PinRecord) (now : Nat) : PinAction → Option Nat
  | .pulse => some (now + r.width * 1000)
  | _ => none

theorem PinRecord.apply_eq (r : PinRecord) (x : PinAction) (o : ActionOrigin) (now : Nat) :
    r.apply x o now = { r with
      level := r.levelAfter x, pulseEnd := (r.pulseAfter now x).map fun e => (e : Int)
      last := some ⟨some x, o, now⟩ } := by
  cases x <;> rfl

theorem applyAction_of_bound {p : PinId} {x : PinAction} {o : ActionOrigin} {r : PinRecord} {s : State}
    (hr : s.pin p = some r) : applyAction p x o s = s.setPin p (some (r.apply x o s.count.time)) := by
  rw [applyAction, hr]

theorem actionOf_actionCode (x : PinAction) : actionOf (actionCode x) = some x := by cases x <;> rfl

theorem actionOf_out_of_range {b : Byte} (h : b = 0 ∨ 4 < b.toNat) : actionOf b = none := by
  cases hx : actionOf b with
  | none => rfl
  | some x =>
    obtain ⟨hlow, hhigh⟩ := (actionOf_isSome b).1 ⟨x, hx⟩
    rcases h with rfl | h
    · exact absurd hlow (by decide)
    · omega

/-! ### DRIVE_PIN -/

/-- A pulse end in an answer, or nine bytes 0 (R181). -/
def pulseEndBytes : Option Nat → List Byte
  | some e => timeBytes e
  | none => List.replicate 9 0

/-- The answer to an action taken at count `now`: the fields present, the levels before and after, whether a pulse
was ended, and the pulse started (R125). -/
def driveBytes (r : PinRecord) (now : Nat) (x : PinAction) : List Byte :=
  [if x = .pulse then 3 else 0, levelCode r.level, levelCode (r.levelAfter x),
    flagCode (r.pulseEnd.isSome && (r.pulseAfter now x).isNone),
    if x = .pulse then Config.pulseStartCode r.pulseEnd.isSome else 0] ++ pulseEndBytes (r.pulseAfter now x)

/-- The pulse end as the record holds it, a point on the scale of the count (R121). -/
theorem pulseEndBytes_eq (o : Option Nat) :
    Field.bytes (.maybe 9 ((o.map fun e => (e : Int)).map fun e => timeBytes (timeValue e))) = pulseEndBytes o := by
  cases o with
  | none => rfl
  | some e => exact congrArg timeBytes (timeValue_natCast e)

section DrivePin

variable {h : HostId} {pin action : Byte} {p : PinId} {r : PinRecord} {s : State}

theorem drivePinAt_out_of_range (hout : 4 ≤ pin.toNat) : drivePinAt h pin action s = (s, .bare .range) := by
  rw [drivePinAt, pinOf_out_of_range hout]

theorem drivePinAt_of_not_owner (hp : pin.toNat = p.val) (hother : ∀ r, s.pin p = some r → r.owner ≠ h) :
    drivePinAt h pin action s = (s, .bare .notOwner) := by
  rw [drivePinAt, pinOf_eq_some.2 hp]
  dsimp only
  cases hr : s.pin p with
  | none => rfl
  | some r => exact if_pos (hother r hr)

theorem drivePinAt_of_bad_action (hp : pin.toNat = p.val) (hr : s.pin p = some r) (ho : r.owner = h)
    (hout : action = 0 ∨ 4 < action.toNat) : drivePinAt h pin action s = (s, .bare .range) := by
  rw [drivePinAt, pinOf_eq_some.2 hp]
  dsimp only
  rw [hr]
  dsimp only
  rw [if_neg (not_not_intro ho), actionOf_out_of_range hout]

theorem drivePinAt_of_owner (x : PinAction) (hp : pin.toNat = p.val) (hr : s.pin p = some r) (ho : r.owner = h) :
    drivePinAt h pin (actionCode x) s =
      (s.setPin p (some (r.apply x .drivePin s.count.time)), .okWith (driveBytes r s.count.time x)) := by
  rw [drivePinAt, pinOf_eq_some.2 hp]
  dsimp only
  rw [hr]
  dsimp only
  rw [if_neg (not_not_intro ho), actionOf_actionCode]
  dsimp only
  rw [applyAction_of_bound hr, PinRecord.apply_eq, driveBytes, ← pulseEndBytes_eq]
  cases x <;>
    simp [PinRecord.levelAfter, PinRecord.pulseAfter, payloadOfFields, presenceBits, bitsToNat, Field.bytes]

end DrivePin

/-! ### PULSE_END -/

theorem endPulse_of_reached {p : PinId} {r : PinRecord} {e : Int} {s : State} (hr : s.pin p = some r)
    (he : r.pulseEnd = some e) (hle : e ≤ s.count.time) :
    endPulse p s = s.setPin p (some { r with level := r.idle, pulseEnd := none }) := by
  rw [endPulse, hr]
  dsimp only
  rw [he]
  exact if_pos hle

theorem endPulse_of_not_reached {p : PinId} {s : State}
    (h : ∀ r e, s.pin p = some r → r.pulseEnd = some e → s.count.time < e) : endPulse p s = s := by
  unfold endPulse
  cases hr : s.pin p with
  | none => rfl
  | some r =>
    dsimp only
    cases he : r.pulseEnd with
    | none => rfl
    | some e => exact if_neg (Int.not_le.2 (h r e hr he))

end Sys2Proof.Machine

namespace Sys2Proof.Proofs

open Sys2Proof.Machine

/-- DRIVE_PIN of the owner (R125): the action applied, whichever it is. -/
theorem drivePin_applied {h : HostId} {q pin : Byte} {p : PinId} {r : PinRecord} {s : State} (x : PinAction)
    (ht : Takes h 0x62 q s) (hp : pin.toNat = p.val) (hr : s.pin p = some r) (ho : r.owner = h) :
    ∃ t, exec (.drivePin h q pin (actionCode x)) s = .next t ∧ RequestFrame h [.pins] s t ∧
      (∀ k, t.pin k = if k = p then some { r with
        level := r.levelAfter x, pulseEnd := (r.pulseAfter s.count.time x).map fun e => (e : Int)
        last := some ⟨some x, .drivePin, s.count.time⟩ } else s.pin k) ∧
      Answers h 0x62 q .ok (driveBytes r s.count.time x) t := by
  rw [← PinRecord.apply_eq]
  exact pinRequest_held (r := .drivePin pin (actionCode x)) ht rfl rfl
    (congrArg atOnce (drivePinAt_of_owner (s := requestTaken h q (.drivePin pin (actionCode x)) s) x hp hr ho))

/-- Settles O42: DRIVE_PIN by the cases of its rule, PULSE_END by whether the end is reached. -/
theorem drivePinAndPulseEnd : Obligations.DrivePinAndPulseEnd := by
  unfold Obligations.DrivePinAndPulseEnd
  refine ⟨fun h q pin action s ht => ⟨fun hout => ?_, fun p hp => ⟨fun hother => ?_, fun r hr ho =>
    ⟨fun hout => ?_, fun x level pulse hx => ?_⟩⟩⟩, fun p s hrun => ⟨fun r e hr he hle => ?_, fun hlt => ?_⟩⟩
  · exact boxRequest_unchanged (r := .drivePin pin action) ht rfl rfl (congrArg atOnce (drivePinAt_out_of_range hout))
  · exact boxRequest_unchanged (r := .drivePin pin action) ht rfl rfl
      (congrArg atOnce (drivePinAt_of_not_owner (s := requestTaken h q (.drivePin pin action) s) hp hother))
  · exact boxRequest_unchanged (r := .drivePin pin action) ht rfl rfl
      (congrArg atOnce (drivePinAt_of_bad_action (s := requestTaken h q (.drivePin pin action) s) hp hr ho hout))
  · have applied := drivePin_applied x ht hp hr ho
    rcases hx with ⟨rfl, rfl, rfl, rfl⟩ | ⟨rfl, rfl, rfl, rfl⟩ | ⟨rfl, rfl, rfl, rfl⟩ | ⟨rfl, rfl, rfl, rfl⟩ <;>
      exact applied
  · have hexec : exec (.pulseEnd p) s = .next (endPulse p s) :=
      congrArg Host.Outcome.next (whileRunning_of_running hrun)
    refine ⟨_, hexec, endPulse_frame p s, fun k => ?_⟩
    rw [endPulse_of_reached hr he hle, State.setPin_pin]
  · exact congrArg Host.Outcome.next ((whileRunning_of_running hrun).trans (endPulse_of_not_reached hlt))

end Sys2Proof.Proofs
end

section
/-! The capture unit, operation by operation: records owed, gap counters raised and cleared, room made in the log, and
the capture event by its cases (R138, R139, R140, R144). -/

namespace Sys2Proof.Machine

/-! ### Sets of hosts -/

theorem mem_hostsWhere {p : HostId → Bool} {h : HostId} : h ∈ hostsWhere p ↔ p h = true := by
  cases h <;> simp [hostsWhere, HostId.all]

theorem hostsWhere_nodup (p : HostId → Bool) : (hostsWhere p).Nodup := List.Nodup.filter _ (by decide)

theorem subscribed_eq_true {x : CapInput} {h : HostId} : subscribed x h = true ↔ x.subscribers.get h ≠ none :=
  Option.isSome_iff_ne_none

/-- The owed set of a new record is the subscriber set of its input (R139 part 4). -/
theorem owedSet_get (x : CapInput) (h : HostId) : (owedSet x).get h = subscribed x h := by cases h <;> rfl

/-! ### Records owed (R138) -/

theorem owedToSome_iff {r : CapRecord} : owedToSome r = true ↔ ∃ h, r.owed.get h = true := by
  constructor
  · intro hr
    rw [owedToSome, Bool.or_eq_true, Bool.or_eq_true] at hr
    rcases hr with (ha | hb) | hc
    · exact ⟨.a, ha⟩
    · exact ⟨.b, hb⟩
    · exact ⟨.c, hc⟩
  · rintro ⟨h, hr⟩
    cases h <;> simp_all [owedToSome, PerHost.get]

/-- A record that `h` is owed no more is owed to the others as before. -/
theorem disowned_owed {g h : HostId} {r : CapRecord} :
    (disowned h r).owed.get g = true ↔ g ≠ h ∧ r.owed.get g = true := by
  rw [disowned, PerHost.get_set]
  split <;> simp_all

/-- What is left of a log once `h` is off the records for which `p` holds (R143). -/
theorem mem_dropOwed {h : HostId} {p : CapRecord → Bool} {log : List CapRecord} {r : CapRecord}
    (hr : r ∈ dropOwed h p log) :
    (r ∈ log ∧ p r = false) ∨ ∃ x ∈ log, r = disowned h x ∧ owedToSome r = true := by
  rw [dropOwed_eq, List.mem_filter, List.mem_map] at hr
  obtain ⟨⟨x, hx, rfl⟩, howed⟩ := hr
  by_cases hp : p x = true
  · rw [if_pos hp] at howed ⊢
    exact .inr ⟨x, hx, rfl, howed⟩
  · rw [if_neg hp]
    exact .inl ⟨hx, Bool.eq_false_iff.2 hp⟩

theorem dropOwed_length_le (h : HostId) (p : CapRecord → Bool) (log : List CapRecord) :
    (dropOwed h p log).length ≤ log.length := by
  rw [dropOwed_eq]
  exact (List.length_filter_le _ _).trans_eq (List.length_map _)

/-- A record read: it stays in the log while it is owed to somebody else (R144). -/
theorem readFirst_of_split {h : HostId} {p : CapRecord → Bool} {before after : List CapRecord} {r : CapRecord}
    (hb : ∀ x ∈ before, p x = false) (hr : p r = true) :
    readFirst h p (before ++ r :: after) =
      before ++ (if owedToSome (disowned h r) then [disowned h r] else []) ++ after := by
  induction before with
  | nil =>
    show (if p r then if owedToSome (disowned h r) then disowned h r :: after else after else _) = _
    rw [if_pos hr]
    split <;> rfl
  | cons x before ih =>
    obtain ⟨hx, hb⟩ := List.forall_mem_cons.1 hb
    rw [List.cons_append, readFirst, if_neg (by simp [hx]), ih hb]
    rfl

/-- A log without a record to read is left as it stands. -/
theorem readFirst_of_none {h : HostId} {p : CapRecord → Bool} {log : List CapRecord} (hl : ∀ x ∈ log, p x = false) :
    readFirst h p log = log := by
  induction log with
  | nil => rfl
  | cons x log ih =>
    obtain ⟨hx, hl⟩ := List.forall_mem_cons.1 hl
    rw [readFirst, if_neg (by simp [hx]), ih hl]

/-! ### Gap counters (R139 part 3, R144) -/

/-- In the capture unit, `t` differs from `s` in gap counters alone. -/
structure OnlyGaps (s t : State) : Prop where
  input : ∀ i, t.input i = { s.input i with gaps := (t.input i).gaps }
  log : t.cap.log = s.cap.log
  serial : t.cap.serial = s.cap.serial
  seen : t.cap.seen = s.cap.seen

theorem OnlyGaps.refl (s : State) : OnlyGaps s s := ⟨fun _ => rfl, rfl, rfl, rfl⟩

theorem OnlyGaps.trans {s t u : State} (h : OnlyGaps s t) (k : OnlyGaps t u) : OnlyGaps s u :=
  ⟨fun i => by rw [k.input i, h.input i], k.log.trans h.log, k.serial.trans h.serial, k.seen.trans h.seen⟩

theorem raiseGap_input (i j : CapId) (h : HostId) (s : State) : (raiseGap i h s).input j = if j = i
    then { s.input i with gaps := (s.input i).gaps.set h (min 255 ((s.input i).gaps.get h + 1)) }
    else s.input j := State.setInput_input _ _ _ _

theorem raiseGap_onlyGaps (i : CapId) (h : HostId) (s : State) : OnlyGaps s (raiseGap i h s) := by
  refine ⟨fun j => ?_, rfl, rfl, rfl⟩
  rw [raiseGap_input]
  split
  · next e => rw [e]
  · rfl

theorem raiseGap_gaps (i j : CapId) (h g : HostId) (s : State) : ((raiseGap i h s).input j).gaps.get g =
    if j = i ∧ g = h then min 255 ((s.input j).gaps.get g + 1) else (s.input j).gaps.get g := by
  rw [raiseGap_input]
  by_cases hj : j = i
  · subst hj
    rw [if_pos rfl, PerHost.get_set]
    by_cases hg : g = h
    · rw [if_pos hg, if_pos ⟨rfl, hg⟩, hg]
    · rw [if_neg hg, if_neg fun c => hg c.2]
  · rw [if_neg hj, if_neg fun c => hj c.1]

theorem raiseGaps_onlyGaps (i : CapId) (l : List HostId) (s : State) :
    OnlyGaps s (l.foldl (fun s h => raiseGap i h s) s) :=
  foldl_keeps (P := OnlyGaps s) (fun u h hu => hu.trans (raiseGap_onlyGaps i h u)) l (.refl s)

/-- The counters of distinct hosts raised one after the other. -/
theorem raiseGaps_gaps (i j : CapId) (g : HostId) {l : List HostId} (hl : l.Nodup) (s : State) :
    ((l.foldl (fun s h => raiseGap i h s) s).input j).gaps.get g =
      if j = i ∧ g ∈ l then min 255 ((s.input j).gaps.get g + 1) else (s.input j).gaps.get g := by
  induction l generalizing s with
  | nil => simp
  | cons h l ih =>
    obtain ⟨hnot, hl⟩ := List.nodup_cons.1 hl
    rw [List.foldl_cons, ih hl, raiseGap_gaps]
    by_cases hg : g = h
    · subst hg
      simp [hnot]
    · simp [hg]

theorem clearGaps_input (h : HostId) (w : Option CapId) (s : State) (i : CapId) :
    (clearGaps h w s).input i = if w.all fun j => j = i
      then { s.input i with gaps := (s.input i).gaps.set h 0 } else s.input i := by
  match i with
  | 0 => rfl
  | 1 => rfl
  | 2 => rfl
  | 3 => rfl

theorem clearGaps_onlyGaps (h : HostId) (w : Option CapId) (s : State) : OnlyGaps s (clearGaps h w s) := by
  refine ⟨fun i => ?_, rfl, rfl, rfl⟩
  rw [clearGaps_input]
  split <;> rfl

/-! ### Room in the log (R139 part 3) -/

/-- Whether host `h` loses a record of input `i` when room is made: the oldest of a full log, which it is owed. -/
def losesRecord (s : State) (i : CapId) (h : HostId) : Bool :=
  decide (32 ≤ s.cap.log.length) && s.cap.log.head?.any fun r => decide (r.input = i) && r.owed.get h

theorem makeRoom_of_short {s : State} (h : s.cap.log.length < 32) : makeRoom s = s := by
  unfold makeRoom
  split
  · rfl
  · exact if_pos h

theorem makeRoom_of_full {r : CapRecord} {rest : List CapRecord} {s : State} (hl : s.cap.log = r :: rest)
    (h : 32 ≤ s.cap.log.length) : makeRoom s =
      (hostsWhere r.owed.get).foldl (fun s h => raiseGap r.input h s) { s with cap := { s.cap with log := rest } } := by
  unfold makeRoom
  split
  · next e => cases e.symm.trans hl
  · next e =>
    cases e.symm.trans hl
    exact if_neg (Nat.not_lt.2 h)

/-- Making room changes gap counters, and the log where it is full. -/
theorem makeRoom_onlyGaps (s : State) : OnlyGaps
    { s with cap := { s.cap with log := if 32 ≤ s.cap.log.length then s.cap.log.tail else s.cap.log } }
    (makeRoom s) := by
  by_cases h : 32 ≤ s.cap.log.length
  · obtain ⟨r, rest, hl⟩ := List.exists_cons_of_length_pos (Nat.lt_of_lt_of_le (by decide) h)
    rw [makeRoom_of_full hl h, if_pos h, hl]
    exact raiseGaps_onlyGaps _ _ _
  · rw [makeRoom_of_short (Nat.not_le.1 h), if_neg h]
    exact .refl s

theorem makeRoom_gaps (i : CapId) (h : HostId) (s : State) : ((makeRoom s).input i).gaps.get h =
    if losesRecord s i h then min 255 ((s.input i).gaps.get h + 1) else (s.input i).gaps.get h := by
  by_cases hfull : 32 ≤ s.cap.log.length
  · obtain ⟨r, rest, hl⟩ := List.exists_cons_of_length_pos (Nat.lt_of_lt_of_le (by decide) hfull)
    have loses : losesRecord s i h = true ↔ i = r.input ∧ h ∈ hostsWhere r.owed.get := by
      rw [losesRecord, decide_eq_true hfull, hl, mem_hostsWhere]
      simp only [Bool.true_and, List.head?_cons, Option.any_some, Bool.and_eq_true, decide_eq_true_eq, eq_comm (a := i)]
    rw [makeRoom_of_full hl hfull, raiseGaps_gaps _ _ _ (hostsWhere_nodup _)]
    simp only [loses]
    rfl
  · rw [makeRoom_of_short (Nat.not_le.1 hfull), losesRecord, decide_eq_false hfull]
    rfl

theorem makeRoom_log_length (s : State) (h : s.cap.log.length ≤ 32) : (makeRoom s).cap.log.length ≤ 31 := by
  rw [(makeRoom_onlyGaps s).log]
  dsimp only
  split
  · rw [List.length_tail]; omega
  · omega

/-! ### The capture event (R139, R140) -/

/-- The record that edge `e` makes (R138). -/
def newRecord (e : SeenEdge) (s : State) : CapRecord :=
  ⟨s.cap.serial, e.input, e.edge, timeValue e.stamp, s.sup.selected, holdover s, s.count.setState = .retained,
    s.count.setState = .unset, owedSet (s.input e.input)⟩

/-- `s` with edge `e` recorded, and `rest` the edges that wait after it. -/
def recorded (e : SeenEdge) (rest : List SeenEdge) (s : State) : State :=
  makeRecord e (makeRoom { s with cap := { s.cap with seen := rest } })

section Recorded

variable (e : SeenEdge) (rest : List SeenEdge) (s : State)

theorem recorded_frame : OnlyChanges [.cap] s (recorded e rest s) :=
  OnlyChanges.trans (by simp [OnlyChanges]) ((makeRoom_frame _).trans (makeRecord_frame e _))

theorem recorded_input (i : CapId) :
    (recorded e rest s).input i = { s.input i with gaps := ((recorded e rest s).input i).gaps } :=
  (makeRoom_onlyGaps { s with cap := { s.cap with seen := rest } }).input i

theorem recorded_gaps (i : CapId) (h : HostId) : ((recorded e rest s).input i).gaps.get h =
    if losesRecord s i h then min 255 ((s.input i).gaps.get h + 1) else (s.input i).gaps.get h :=
  makeRoom_gaps i h { s with cap := { s.cap with seen := rest } }

theorem recorded_seen : (recorded e rest s).cap.seen = rest :=
  (makeRoom_onlyGaps { s with cap := { s.cap with seen := rest } }).seen

theorem recorded_serial : (recorded e rest s).cap.serial = (s.cap.serial + 1) % 65536 :=
  congrArg (fun n => (n + 1) % 65536) (makeRoom_onlyGaps { s with cap := { s.cap with seen := rest } }).serial

/-- The record is made of what stood before room was made: none of it is a gap counter or the log. -/
theorem recorded_log : (recorded e rest s).cap.log =
    (if 32 ≤ s.cap.log.length then s.cap.log.tail else s.cap.log) ++ [newRecord e s] := by
  have room := makeRoom_onlyGaps { s with cap := { s.cap with seen := rest } }
  obtain ⟨hcount, hsup, -⟩ := makeRoom_frame { s with cap := { s.cap with seen := rest } }
  have record : newRecord e (makeRoom { s with cap := { s.cap with seen := rest } }) = newRecord e s := by
    unfold newRecord holdover
    rw [room.serial, room.input, hcount (by simp), hsup (by simp)]
    rfl
  show _ ++ [newRecord e _] = _
  rw [record, room.log]

end Recorded

theorem takeCapture_of_nil {s : State} (hs : s.cap.seen = []) : takeCapture s = s := by
  unfold takeCapture
  split
  · rfl
  · next e => cases hs.symm.trans e

section Taken

variable {e : SeenEdge} {rest : List SeenEdge} {s : State} (hs : s.cap.seen = e :: rest)

include hs

/-- Without subscribers the edge goes and nothing else (R139 part 2). -/
theorem takeCapture_of_no_subscriber (hn : ∀ h, (s.input e.input).subscribers.get h = none) :
    takeCapture s = { s with cap := { s.cap with seen := rest } } := by
  have nobody : hostsWhere (subscribed (s.input e.input)) = [] :=
    List.eq_nil_iff_forall_not_mem.2 fun h hm => subscribed_eq_true.1 (mem_hostsWhere.1 hm) (hn h)
  unfold takeCapture
  split
  · next c => cases hs.symm.trans c
  · next c =>
    cases hs.symm.trans c
    dsimp only
    rw [nobody]
    rfl

/-- With subscribers the record is made and each of them posted its notice (R139, R140). -/
theorem takeCapture_of_subscriber (hn : ∃ h, (s.input e.input).subscribers.get h ≠ none) :
    takeCapture s = (hostsWhere (subscribed (s.input e.input))).foldl
      (fun s h => post h (captureNotice s e.input h) s) (recorded e rest s) := by
  obtain ⟨h, hh⟩ := hn
  have somebody : ¬(hostsWhere (subscribed (s.input e.input))).isEmpty = true := fun c =>
    List.not_mem_nil (List.isEmpty_iff.1 c ▸ mem_hostsWhere.2 (subscribed_eq_true.2 hh))
  unfold takeCapture
  split
  · next c => cases hs.symm.trans c
  · next c =>
    cases hs.symm.trans c
    exact if_neg somebody

end Taken

theorem postCaptures_frame (i : CapId) (l : List HostId) (s : State) :
    OnlyChanges [.notices] s (l.foldl (fun s h => post h (captureNotice s i h) s) s) :=
  OnlyChanges.foldl (fun s h => post_frame h _ s) l s

end Sys2Proof.Machine
end

section
/-! The capture log: who is owed a record is subscribed to its input, who is subscribed is attached, and the log is
bounded. A capture adds a record for its subscribers; a host that leaves an input leaves its records (R134, R138, R142,
R143, R146). -/

namespace Sys2Proof.Machine

/-! ### The conditions of one input and of one record -/

/-- The subscribers of an input are attached; gap counters are in range, and 0 for a host not subscribed (R134,
R142). -/
structure InputOk (s : State) (x : CapInput) : Prop where
  attached : ∀ h, subscribed x h = true → s.attached h = true
  gaps : ∀ h, x.gaps.get h ≤ 255
  noGaps : ∀ h, subscribed x h = false → x.gaps.get h = 0

/-- A record is owed to somebody, and only to subscribers of its input (R138). -/
structure RecordOk (s : State) (r : CapRecord) : Prop where
  owed : ∃ h, r.owed.get h = true
  subscribed : ∀ h, r.owed.get h = true → subscribed (s.input r.input) h = true

/-- The capture unit's invariant, input by input and record by record. -/
structure CaptureOk (s : State) : Prop where
  length : s.cap.log.length ≤ 32
  serial : s.cap.serial ≤ 65535
  records : ∀ r ∈ s.cap.log, RecordOk s r
  inputs : ∀ i, InputOk s (s.input i)

/-- Who is owed a record is attached, since subscribers are. -/
theorem captureInv_iff (s : State) : CaptureInv s ↔ CaptureOk s := by
  constructor
  · rintro ⟨hlength, hserial, hrecords, hattached, hgaps⟩
    refine ⟨hlength, hserial, fun r hr => ?_, fun i => ⟨hattached i, fun h => ?_, fun h => ?_⟩⟩
    · obtain ⟨howed, hto⟩ := hrecords r hr
      exact ⟨howed, fun h hh => (hto h hh).2⟩
    · exact (hgaps i h).1
    · exact (hgaps i h).2
  · intro hs
    refine ⟨hs.length, hs.serial, fun r hr => ⟨(hs.records r hr).owed, fun h hh => ?_⟩,
      fun i => (hs.inputs i).attached, fun i h => ⟨(hs.inputs i).gaps h, (hs.inputs i).noGaps h⟩⟩
    have hsub := (hs.records r hr).subscribed h hh
    exact ⟨(hs.inputs r.input).attached h hsub, hsub⟩

theorem subscribed_congr {x y : CapInput} (e : x.subscribers = y.subscribers) (h : HostId) :
    subscribed x h = subscribed y h := by rw [subscribed, subscribed, e]

/-- An input with the same subscribers and counters, seen where no session has ended. -/
theorem InputOk.congr {s t : State} {x y : CapInput} (hx : InputOk s x) (hsub : y.subscribers = x.subscribers)
    (hgaps : y.gaps = x.gaps) (hatt : ∀ g, s.attached g = true → t.attached g = true) : InputOk t y := by
  refine ⟨fun h hh => hatt h (hx.attached h ?_), fun h => hgaps ▸ hx.gaps h, fun h hh => ?_⟩
  · rwa [← subscribed_congr hsub]
  · rw [hgaps]
    exact hx.noGaps h (by rwa [← subscribed_congr hsub])

/-- The subscribers of an input only grow. -/
theorem RecordOk.mono {s t : State} {r : CapRecord} (hr : RecordOk s r)
    (h : ∀ g, Machine.subscribed (s.input r.input) g = true → Machine.subscribed (t.input r.input) g = true) :
    RecordOk t r := ⟨hr.owed, fun g hg => h g (hr.subscribed g hg)⟩

/-- A record struck off one host's list, while it is owed to another. -/
theorem RecordOk.disowned {s : State} {h : HostId} {r : CapRecord} (hr : RecordOk s r)
    (ho : owedToSome (disowned h r) = true) : RecordOk s (disowned h r) :=
  ⟨owedToSome_iff.1 ho, fun g hg => hr.subscribed g (disowned_owed.1 hg).2⟩

/-! ### What leaves the capture unit -/

/-- The log, the serial number, the subscribers and the counters stand, and no session ends. -/
theorem CaptureOk.of_kept {s t : State} (hs : CaptureOk s) (hlog : t.cap.log = s.cap.log)
    (hserial : t.cap.serial = s.cap.serial) (hsub : ∀ i, (t.input i).subscribers = (s.input i).subscribers)
    (hgaps : ∀ i, (t.input i).gaps = (s.input i).gaps) (hatt : ∀ g, s.attached g = true → t.attached g = true) :
    CaptureOk t :=
  ⟨hlog ▸ hs.length, hserial ▸ hs.serial,
    fun r hr => (hs.records r (hlog ▸ hr)).mono fun g hg => by rwa [subscribed_congr (hsub r.input)],
    fun i => (hs.inputs i).congr (hsub i) (hgaps i) hatt⟩

theorem CaptureOk.of_cap {s t : State} (hs : CaptureOk s) (hc : t.cap = s.cap)
    (hatt : ∀ g, s.attached g = true → t.attached g = true) : CaptureOk t := by
  have hinput : ∀ i, t.input i = s.input i := fun i => by rw [State.input, State.input, hc]
  exact hs.of_kept (by rw [hc]) (by rw [hc]) (fun i => by rw [hinput]) (fun i => by rw [hinput]) hatt

theorem CaptureOk.of_frame {ps : List Part} {s t : State} (hs : CaptureOk s) (hf : OnlyChanges ps s t)
    (hps : .cap ∉ ps) (hatt : ∀ g, t.attached g = s.attached g) : CaptureOk t := by
  obtain ⟨-, -, -, -, -, -, hcap, -⟩ := hf
  exact hs.of_cap (hcap hps) fun g => (hatt g).symm ▸ id

/-- The same for what leaves the ports too. -/
theorem CaptureOk.of_other {ps : List Part} {s t : State} (hs : CaptureOk s) (hf : OnlyChanges ps s t)
    (hps : [.cap, .ports].Disjoint ps) : CaptureOk t :=
  hs.of_frame hf (hps (by simp)) (hf.attached (hps (by simp)))

/-! ### The count -/

/-- An advance samples the inputs: it changes what is sampled, the spacing and the edges seen (R135). -/
theorem takeAdvance_captureOk {m : Nat} {levels : Quad Level} {s : State} (hs : CaptureOk s) :
    CaptureOk (takeAdvance m levels s) :=
  hs.of_kept (takeAdvance_log _ _ _) (takeAdvance_serial _ _ _) (fun i => by rw [takeAdvance_input]; rfl)
    (fun i => by rw [takeAdvance_input]; rfl) fun g hg => ((takeAdvance_posts m levels s).attached g).trans hg

/-- A first set moves the stamps of the edges seen (R141). -/
theorem firstSet_captureOk {value : Nat} {s : State} (hs : CaptureOk s) : CaptureOk (firstSet value s) := by
  have hinput : ∀ i, (firstSet value s).input i = s.input i := fun i => by rw [State.input, firstSet_cap]; rfl
  exact hs.of_kept (by rw [firstSet_cap]) (by rw [firstSet_cap]) (fun i => by rw [hinput]) (fun i => by rw [hinput])
    fun g hg => ((firstSet_posts value s).attached g).trans hg

/-- So does a step (R141). -/
theorem applyStep_captureOk {d : Int} {clearResidue : Bool} {s : State} (hs : CaptureOk s) :
    CaptureOk (applyStep d clearResidue s) := by
  have taken : CaptureOk (stepTaken d clearResidue s) :=
    hs.of_kept rfl rfl (fun _ => rfl) (fun _ => rfl) fun _ => id
  exact taken.of_other (applyStep_frame d clearResidue s) (by simp)

theorem setTimeAt_captureOk {v : TimeArg} {s : State} (hs : CaptureOk s) : CaptureOk (setTimeAt v s).1 := by
  unfold setTimeAt
  split
  · exact hs
  · split
    · exact firstSet_captureOk hs
    · exact applyStep_captureOk hs

theorem stepAt_captureOk {v : StepArg} {s : State} (hs : CaptureOk s) : CaptureOk (stepAt v s).1 := by
  unfold stepAt
  split
  · exact hs
  · split
    · exact hs
    · dsimp only
      split
      · exact applyStep_captureOk hs
      · exact hs

/-! ### The supervisor and the arbiter -/

theorem loseSource_captureOk {w : Watched} {levels : Quad Level} {s : State} (hs : CaptureOk s) :
    CaptureOk (loseSource w levels s) := by
  have failed : CaptureOk (s.setWatched w .failed) := hs.of_other (setWatched_frame _ _ _) (by simp)
  unfold loseSource
  split
  · refine CaptureOk.of_frame ?_ (endWaitIf_frame _ _ _) (by simp) (endWaitIf_posts _ _ _).attached
    split
    · exact ((takeAdvance_captureOk failed).of_other (withSup_frame _ _) (by simp)).of_other
        (postAll_frame _ _) (by simp)
    · split
      · exact failed.of_other (withSup_frame _ _) (by simp)
      · exact failed
  · exact hs

theorem storeBridge_captureOk {before s : State} {levels : Quad Level} (hs : CaptureOk s) :
    CaptureOk (storeBridge before levels s) := by
  unfold storeBridge
  split
  · exact takeAdvance_captureOk (hs.of_other (withSup_frame _ _) (by simp))
  · exact hs

theorem setSourcesAt_captureOk {h : HostId} {v : ListArg} {levels : Quad Level} {s : State} (hs : CaptureOk s) :
    CaptureOk (setSourcesAt h v levels s).1 :=
  setSourcesAt_keeps hs (fun l => hs.of_other (storeList_frame l s) (by simp)) (fun _ => storeBridge_captureOk)
    (fun x u hu => hu.of_other (selectAtStore_frame s x u) (by simp))
    (fun u x hu => hu.of_other (withSup_frame x u) (by simp))

/-! ### The capture event (R139) -/

/-- A capture for a subscriber: the log has room, the record is owed to the subscribers, and who loses a record was owed
it and so is subscribed. -/
theorem recorded_captureOk {e : SeenEdge} {s : State} (rest : List SeenEdge) (hs : CaptureOk s)
    (hn : ∃ h, (s.input e.input).subscribers.get h ≠ none) : CaptureOk (recorded e rest s) := by
  have same : ∀ i h, subscribed ((recorded e rest s).input i) h = subscribed (s.input i) h := fun i =>
    subscribed_congr (by rw [recorded_input])
  have old : ∀ r ∈ (if 32 ≤ s.cap.log.length then s.cap.log.tail else s.cap.log), r ∈ s.cap.log := fun r hr => by
    split at hr
    · exact List.mem_of_mem_tail hr
    · exact hr
  have loser : ∀ i h, losesRecord s i h = true → subscribed (s.input i) h = true := fun i h hl => by
    obtain ⟨-, hl⟩ := (Bool.and_eq_true _ _).mp hl
    obtain ⟨r, hr, hl⟩ := (Option.any_eq_true _ _).1 hl
    obtain ⟨hi, ho⟩ := (Bool.and_eq_true _ _).mp hl
    exact of_decide_eq_true hi ▸ (hs.records r (List.mem_of_mem_head? hr)).subscribed h ho
  refine ⟨?_, ?_, fun r hr => ?_, fun i => ⟨fun h hh => ?_, fun h => ?_, fun h hh => ?_⟩⟩
  · have := makeRoom_log_length { s with cap := { s.cap with seen := rest } } hs.length
    show (_ ++ [_]).length ≤ 32
    rw [List.length_append]
    exact Nat.succ_le_succ this
  · rw [recorded_serial]
    omega
  · rw [recorded_log, List.mem_append, List.mem_singleton] at hr
    rcases hr with hr | rfl
    · exact (hs.records r (old r hr)).mono fun g hg => by rwa [same]
    · refine ⟨hn.imp fun h hh => ?_, fun h hh => ?_⟩
      · exact (owedSet_get _ h).trans (subscribed_eq_true.2 hh)
      · rw [same]
        exact (owedSet_get _ h).symm.trans hh
  · rw [(recorded_frame e rest s).attached (by simp)]
    exact (hs.inputs i).attached h (by rwa [← same])
  · rw [recorded_gaps]
    split
    · exact Nat.min_le_left _ _
    · exact (hs.inputs i).gaps h
  · rw [same] at hh
    rw [recorded_gaps, if_neg fun c => by rw [loser i h c] at hh; cases hh]
    exact (hs.inputs i).noGaps h hh

theorem takeCapture_captureOk {s : State} (hs : CaptureOk s) : CaptureOk (takeCapture s) := by
  cases hseen : s.cap.seen with
  | nil => rwa [takeCapture_of_nil hseen]
  | cons e rest =>
    by_cases hn : ∃ h, (s.input e.input).subscribers.get h ≠ none
    · rw [takeCapture_of_subscriber hseen hn]
      exact (recorded_captureOk rest hs hn).of_other (postCaptures_frame _ _ _) (by simp)
    · rw [takeCapture_of_no_subscriber hseen fun h => not_not.1 fun c => hn ⟨h, c⟩]
      exact hs.of_kept rfl rfl (fun _ => rfl) (fun _ => rfl) fun _ => id

/-! ### Subscriptions (R137, R142, R143, R146) -/

/-- An input written, that loses no subscriber. -/
theorem setInput_captureOk {i : CapId} {x : CapInput} {s : State} (hs : CaptureOk s) (hx : InputOk s x)
    (hsub : ∀ h, subscribed (s.input i) h = true → subscribed x h = true) : CaptureOk (s.setInput i x) := by
  refine ⟨hs.length, hs.serial, fun r hr => (hs.records r hr).mono fun g hg => ?_, fun j => ?_⟩
  · rw [State.setInput_input]
    split
    · next e => exact hsub g (e ▸ hg)
    · exact hg
  · rw [State.setInput_input]
    split
    · exact ⟨hx.attached, hx.gaps, hx.noGaps⟩
    · exact ⟨(hs.inputs j).attached, (hs.inputs j).gaps, (hs.inputs j).noGaps⟩

theorem setEdgesAt_captureOk {input selection : Byte} {s : State} (hs : CaptureOk s) :
    CaptureOk (setEdgesAt input selection s).1 := by
  unfold setEdgesAt
  split
  · next i x _ _ => exact setInput_captureOk hs ((hs.inputs i).congr rfl rfl fun _ => id) fun _ => id
  · exact hs

/-- An attached host joins, and its counter stands at 0 when it does (R142). -/
theorem subscribeAt_captureOk {h : HostId} {input cls : Byte} {s : State} (hs : CaptureOk s)
    (ha : s.attached h = true) : CaptureOk (subscribeAt h input cls s).1 := by
  unfold subscribeAt
  split
  · next i c _ _ =>
    have joined : ∀ g, subscribed { s.input i with subscribers := (s.input i).subscribers.set h (some c) } g =
        if g = h then true else subscribed (s.input i) g := fun g => by
      rw [subscribed, PerHost.get_set]
      split <;> rfl
    refine setInput_captureOk hs ⟨fun g hg => ?_, (hs.inputs i).gaps, fun g hg => ?_⟩ fun g hg => ?_
    · rw [joined] at hg
      split at hg
      · next e => exact e ▸ ha
      · exact (hs.inputs i).attached g hg
    · rw [joined] at hg
      split at hg
      · cases hg
      · exact (hs.inputs i).noGaps g hg
    · rw [joined]
      split
      · rfl
      · exact hg
  · exact hs

/-- An input that `h` has left. -/
def CapInput.without (h : HostId) (x : CapInput) : CapInput :=
  { x with subscribers := x.subscribers.set h none, gaps := x.gaps.set h 0 }

theorem subscribed_without (h g : HostId) (x : CapInput) :
    subscribed (x.without h) g = if g = h then false else subscribed x g := by
  rw [subscribed, CapInput.without, PerHost.get_set]
  split <;> rfl

/-- A host that leaves some inputs leaves their records; sessions end only of hosts that leave every input (R143,
R146). -/
theorem CaptureOk.of_left {h : HostId} {p : CapId → Bool} {s t : State} (hs : CaptureOk s)
    (hinput : ∀ i, t.input i = if p i then (s.input i).without h else s.input i)
    (hlog : t.cap.log = dropOwed h (fun r => p r.input) s.cap.log) (hserial : t.cap.serial = s.cap.serial)
    (hatt : ∀ g, s.attached g = true → t.attached g = true ∨ g = h ∧ ∀ i, p i = true) : CaptureOk t := by
  have stays : ∀ i g, subscribed (s.input i) g = true → (p i = true → g ≠ h) →
      subscribed (t.input i) g = true := fun i g hg hne => by
    rw [hinput]
    split
    · next hp => rw [subscribed_without, if_neg (hne hp)]; exact hg
    · exact hg
  refine ⟨hlog ▸ (dropOwed_length_le _ _ _).trans hs.length, hserial ▸ hs.serial, fun r hr => ?_, fun i => ?_⟩
  · rcases mem_dropOwed (hlog ▸ hr) with ⟨hr, hp⟩ | ⟨x, hx, rfl, ho⟩
    · exact (hs.records r hr).mono fun g hg => stays _ g hg fun c => by rw [c] at hp; cases hp
    · refine ⟨owedToSome_iff.1 ho, fun g hg => ?_⟩
      obtain ⟨hne, hg⟩ := disowned_owed.1 hg
      exact stays x.input g ((hs.records x hx).subscribed g hg) fun _ => hne
  · rw [hinput]
    split
    · refine ⟨fun g hg => ?_, fun g => ?_, fun g hg => ?_⟩
      · rw [subscribed_without] at hg
        split at hg
        · cases hg
        · next hne => exact (hatt g ((hs.inputs i).attached g hg)).resolve_right fun c => hne c.1
      · rw [CapInput.without, PerHost.get_set]
        split
        · exact Nat.zero_le _
        · exact (hs.inputs i).gaps g
      · rw [subscribed_without] at hg
        rw [CapInput.without, PerHost.get_set]
        split
        · rfl
        · next hne => exact (hs.inputs i).noGaps g (by rwa [if_neg hne] at hg)
    · next hp =>
      exact ⟨fun g hg => (hatt g ((hs.inputs i).attached g hg)).resolve_right fun c => hp (c.2 i), (hs.inputs i).gaps,
        (hs.inputs i).noGaps⟩

theorem removeSubscriber_captureOk {h : HostId} {i : CapId} {s : State} (hs : CaptureOk s) :
    CaptureOk (removeSubscriber h i s) := by
  refine hs.of_left (h := h) (p := fun j => decide (j = i)) (fun j => ?_) (removeSubscriber_log h i s)
    (removeSubscriber_serial h i s) fun g hg => .inl hg
  rw [removeSubscriber_input]
  by_cases e : j = i
  · subst e
    rw [if_pos rfl, if_pos (by simp)]
    rfl
  · rw [if_neg e, if_neg (by simp [e])]

theorem unsubscribeAt_captureOk {h : HostId} {input : Byte} {s : State} (hs : CaptureOk s) :
    CaptureOk (unsubscribeAt h input s).1 := by
  unfold unsubscribeAt
  split
  · exact hs
  · split
    · exact removeSubscriber_captureOk hs
    · exact hs

/-- The host torn down leaves every input as its session ends (R146). -/
theorem teardown_captureOk {h : HostId} {s : State} (hs : CaptureOk s) : CaptureOk (teardown h s) := by
  refine hs.of_left (h := h) (p := fun _ => true) (fun i => teardown_input h s i) (teardown_log h s)
    (teardown_serial h s) fun g hg => ?_
  rw [teardown_attached]
  split
  · next e => exact .inr ⟨e, fun _ => rfl⟩
  · exact .inl hg

/-! ### Records read (R144) -/

/-- What is left of a log once a record is read: the records not read, and the one read while it is owed to another. -/
theorem mem_readFirst {h : HostId} {p : CapRecord → Bool} {log : List CapRecord} {r : CapRecord}
    (hr : r ∈ readFirst h p log) :
    r ∈ log ∨ ∃ x ∈ log, r = disowned h x ∧ owedToSome r = true := by
  cases hf : log.find? p with
  | none =>
    rw [readFirst_of_none fun x hx => Bool.eq_false_iff.2 (List.find?_eq_none.1 hf x hx)] at hr
    exact .inl hr
  | some x =>
    obtain ⟨hx, before, after, rfl, hb⟩ := List.find?_eq_some_iff_append.1 hf
    rw [readFirst_of_split (fun y hy => by simpa using hb y hy) hx] at hr
    by_cases ho : owedToSome (disowned h x) = true
    · rw [if_pos ho] at hr
      simp only [List.mem_append, List.mem_singleton] at hr
      rcases hr with (hr | rfl) | hr
      · exact .inl (by simp [hr])
      · exact .inr ⟨x, by simp, rfl, ho⟩
      · exact .inl (by simp [hr])
    · rw [if_neg ho] at hr
      simp only [List.mem_append, List.not_mem_nil, or_false] at hr
      exact .inl (by rw [List.mem_append, List.mem_cons]; tauto)

theorem readFirst_length_le (h : HostId) (p : CapRecord → Bool) (log : List CapRecord) :
    (readFirst h p log).length ≤ log.length := by
  induction log with
  | nil => exact Nat.le_refl _
  | cons r log ih =>
    rw [readFirst]
    split
    · dsimp only
      split
      · exact Nat.le_refl _
      · exact Nat.le_succ _
    · exact Nat.succ_le_succ ih

theorem clearGaps_captureOk {h : HostId} {w : Option CapId} {s : State} (hs : CaptureOk s) :
    CaptureOk (clearGaps h w s) := by
  refine ⟨hs.length, hs.serial, fun r hr => (hs.records r hr).mono fun g hg => ?_, fun i => ?_⟩
  · rwa [subscribed_congr (clearGaps_subscribers h w s r.input)]
  · have cleared : ∀ g, ((clearGaps h w s).input i).gaps.get g = (s.input i).gaps.get g ∨
        ((clearGaps h w s).input i).gaps.get g = 0 := fun g => by
      rw [clearGaps_input]
      split
      · rw [PerHost.get_set]
        split
        · exact .inr rfl
        · exact .inl rfl
      · exact .inl rfl
    have same := subscribed_congr (clearGaps_subscribers h w s i)
    refine ⟨fun g hg => (hs.inputs i).attached g (same g ▸ hg), fun g => ?_, fun g hg => ?_⟩
    · rcases cleared g with e | e
      · exact e ▸ (hs.inputs i).gaps g
      · exact e ▸ Nat.zero_le _
    · rcases cleared g with e | e
      · exact e.trans ((hs.inputs i).noGaps g (same g ▸ hg))
      · exact e

theorem readCaptureAt_captureOk {h : HostId} {which : Byte} {s : State} (hs : CaptureOk s) :
    CaptureOk (readCaptureAt h which s).1 := by
  have read : ∀ p, CaptureOk { s with cap := { s.cap with log := readFirst h p s.cap.log } } := fun p => by
    refine ⟨(readFirst_length_le h p _).trans hs.length, hs.serial, fun r hr => ?_,
      fun i => (hs.inputs i).congr rfl rfl fun _ => id⟩
    rcases mem_readFirst hr with hr | ⟨x, hx, rfl, ho⟩
    · exact (hs.records r hr).mono fun _ => id
    · exact ((hs.records x hx).disowned ho).mono fun _ => id
  unfold readCaptureAt
  split
  · exact hs
  · dsimp only
    split
    · exact clearGaps_captureOk hs
    · exact clearGaps_captureOk (read _)

/-! ### Every step -/

/-- ATTACH begins a session and ends none. -/
theorem attachAt_captureOk {h : HostId} {s : State} (hs : CaptureOk s) : CaptureOk (attachAt h s).1 :=
  hs.of_cap rfl fun g hg => by
    rw [attachAt, State.setPort_attached]
    split
    · rfl
    · exact hg

theorem mainDomainCleared_captureOk (s : State) : CaptureOk (mainDomainCleared s) := by
  refine ⟨Nat.zero_le _, Nat.zero_le _, fun r hr => (by cases hr), fun i => ?_⟩
  rw [mainDomainCleared_input]
  refine ⟨fun h hh => ?_, fun h => ?_, fun h _ => ?_⟩
  · cases h <;> cases hh
  · simp [CapInput.initial]
  · simp [CapInput.initial]

theorem requestsKeep_captureOk : RequestsKeep CaptureOk := by
  intro h levels r s _ hopen _ hs
  have attached : openToDetached r = false → s.attached h = true := fun hc => by simpa [hc] using hopen
  cases r with
  | attach => exact attachAt_captureOk hs
  | detach => exact teardown_captureOk hs
  | status => exact hs
  | echo data => exact hs
  | sessions => exact hs
  | readTime => exact hs
  | timeStatus => exact hs
  | setTime v => exact setTimeAt_captureOk hs
  | step v => exact stepAt_captureOk hs
  | slew v => exact hs.of_other (slewAt_frame v s) (by simp)
  | setTrim source trim => exact hs.of_other (setTrimAt_frame source trim s) (by simp)
  | setSources v => exact setSourcesAt_captureOk hs
  | sourceStatus => exact hs
  | claim lease => exact hs.of_other (claimAt_frame h lease s) (by simp)
  | release => exact hs.of_frame (releaseAt_frame h s) (by simp) (releaseAt_posts h s).attached
  | withdraw => exact hs.of_other (withdrawAt_frame h s) (by simp)
  | authStatus => exact hs
  | alloc => exact hs.of_other (allocAt_frame h s) (by simp)
  | free slot => exact hs.of_other (freeAt_frame h slot s) (by simp)
  | arm v => exact hs.of_other (armAt_frame h v s) (by simp)
  | cancel slot => exact hs.of_other (cancelAt_frame h slot s) (by simp)
  | timerStatus slot => exact (timerStatusAt_state h slot s).symm ▸ hs
  | take => exact hs.of_other (takeAt_frame h s) (by simp)
  | ack => exact hs.of_other (ackAt_frame h s) (by simp)
  | peek => exact hs.of_other (peekAt_frame h s) (by simp)
  | setThreshold v => exact hs.of_other (setThresholdAt_frame h v s) (by simp)
  | bindPin pin idle width => exact hs.of_other (bindPinAt_frame h pin idle width s) (by simp)
  | unbindPin pin => exact hs.of_other (unbindPinAt_frame h pin s) (by simp)
  | drivePin pin action => exact hs.of_other (drivePinAt_frame h pin action s) (by simp)
  | pinStatus pin => exact (pinStatusAt_state pin s).symm ▸ hs
  | setEdges input selection => exact setEdgesAt_captureOk hs
  | subscribe input cls => exact subscribeAt_captureOk hs (attached rfl)
  | unsubscribe input => exact unsubscribeAt_captureOk hs
  | readCapture which => exact readCaptureAt_captureOk hs

theorem operationsKeep_captureOk : OperationsKeep CaptureOk where
  sessions s h x hx hs := hs.of_cap rfl fun g hg => by
    rw [State.setPort_attached]
    split
    · next e => rw [hx]; exact e ▸ hg
    · exact hg
  pending _ _ hs := hs.of_cap rfl fun _ => id
  power _ _ hs := hs.of_cap rfl fun _ => id
  retained _ _ hs := hs.of_cap rfl fun _ => id
  requests := requestsKeep_captureOk
  advance _ s hs := takeAdvance_captureOk (hs.of_other (slewApplied_frame s) (by simp))
  expireHead s hs := hs.of_other (expireReached_onlyChanges _ _ _ s) (by simp)
  endPulse p s hs := hs.of_other (endPulse_frame p s) (by simp)
  takeCapture _ hs := takeCapture_captureOk hs
  expireLease s hs := hs.of_frame (expireLease_frame s) (by simp) (expireLease_posts s).attached
  superviseCycle s hs := hs.of_other (superviseCycle_frame s) (by simp)
  setWatched w x s hs := hs.of_other (setWatched_frame w x s) (by simp)
  loseSource _ _ _ hs := loseSource_captureOk hs
  qualify w s hs := hs.of_frame (qualify_frame w s) (by simp) (qualify_posts w s).attached
  endHoldOff w s hs := hs.of_other (endHoldOff_frame w s) (by simp)
  timeOutWait s hs := hs.of_frame (timeOutWait_frame s) (by simp) (timeOutWait_posts s).attached
  teardown _ _ hs := teardown_captureOk hs
  mainDomainCleared s _ := mainDomainCleared_captureOk s
  mainReset s _ := (mainDomainCleared_captureOk s).of_cap rfl fun _ => id

end Sys2Proof.Machine

namespace Sys2Proof.Proofs

open Sys2Proof.Machine

/-- Settles O6: only a capture adds a record, and owes it to subscribers; only a host that leaves an input, or is torn
down, stops being a subscriber, and its owed records go with it. -/
theorem stepKeepsCaptureLog : Obligations.StepKeepsCaptureLog := by
  unfold Obligations.StepKeepsCaptureLog
  exact fun s t hs h => (captureInv_iff t).2 (operationsKeep_captureOk.step ((captureInv_iff s).1 hs) h)

end Sys2Proof.Proofs
end

section
/-! The sampling of the capture inputs at an advance: which edges are accepted, and what waits for its capture (R135,
R136). -/

namespace Sys2Proof.Machine

/-! ### Accepted edges (R135, R136) -/

/-- The edge that an input shows, where its selection names that edge (R135, R136). -/
def edgeNamed (sampled : Option Level) (now : Level) (selection : EdgeSelection) : Option Edge :=
  match sampled, now, selection with
  | some .low, .high, .rise => some .rising
  | some .low, .high, .both => some .rising
  | some .high, .low, .fall => some .falling
  | some .high, .low, .both => some .falling
  | _, _, _ => none

theorem edgeNamed_eq (sampled : Option Level) (now : Level) (selection : EdgeSelection) :
    edgeNamed sampled now selection = (edgeSeen sampled now).filter selection.names := by
  cases sampled with
  | none => rfl
  | some level => cases level <;> cases now <;> cases selection <;> rfl

/-- An edge is accepted where the selection names it and the spacing is over (R136). -/
theorem acceptedEdge_eq (x : CapInput) (now : Level) :
    x.acceptedEdge now = if spacingOver x.spacing then edgeNamed x.sampled now x.selection else none := by
  rw [edgeNamed_eq, CapInput.acceptedEdge]
  cases spacingOver x.spacing with
  | true => simp
  | false => simp

/-- The spacing after an advance by `m`: it stays at 1,000 ns once it has reached that (R136). -/
def spacingAfter (m : Nat) (x : CapInput) : Option Nat := x.spacing.map fun e => min (1000 * 4294967296) (e + m)

theorem spacingOver_spacingAfter (m : Nat) (x : CapInput) : spacingOver (spacingAfter m x) = true ↔
    spacingAfter m x = none ∨ spacingAfter m x = some (1000 * 4294967296) := by
  unfold spacingAfter
  cases x.spacing with
  | none => simp [spacingOver]
  | some e =>
    have reached : 1000 * 4294967296 ≤ min (1000 * 4294967296) (e + m) ↔
        min (1000 * 4294967296) (e + m) = 1000 * 4294967296 := by omega
    rw [Option.map_some, Option.some_inj, spacingOver, decide_eq_true_iff, spacingLimit, fine, reached]
    simp only [reduceCtorEq, false_or]

/-- The edge of `x` that is accepted at an advance by `m` to level `now`. -/
def acceptedAfter (m : Nat) (x : CapInput) (now : Level) : Option Edge :=
  if spacingAfter m x = none ∨ spacingAfter m x = some (1000 * 4294967296)
  then edgeNamed x.sampled now x.selection else none

theorem elapse_spacing (m : Nat) (x : CapInput) : (x.elapse m).spacing = spacingAfter m x := by
  rw [CapInput.elapse, spacingLimit, fine]
  rfl

theorem acceptedEdge_elapse (m : Nat) (x : CapInput) (now : Level) :
    (x.elapse m).acceptedEdge now = acceptedAfter m x now := by
  rw [acceptedEdge_eq, acceptedAfter, elapse_spacing]
  exact if_congr (spacingOver_spacingAfter m x) rfl rfl

section Sampled

variable (m : Nat) (levels : Quad Level) (s : State)

theorem takeAdvance_sampled (i : CapId) : (takeAdvance m levels s).input i = { s.input i with
    sampled := some (levels.get i)
    spacing :=
      if (acceptedAfter m (s.input i) (levels.get i)).isSome then some 0 else spacingAfter m (s.input i) } := by
  rw [takeAdvance_input, CapInput.sample, acceptedEdge_elapse, elapse_spacing]
  rfl

/-- `s` with the spacing of every input raised (R136). -/
def spacingRaised : State := { s with cap := { s.cap with inputs := s.cap.inputs.map (CapInput.elapse m) } }

theorem spacingRaised_input (i : CapId) : (spacingRaised m s).input i = (s.input i).elapse m := Quad.get_map _ _ _

theorem spacingRaised_count : (spacingRaised m s).count = s.count := rfl

theorem sampleInputs_seen : (sampleInputs m levels s).cap.seen = s.cap.seen ++
    ([0, 1, 2, 3] : List CapId).filterMap fun i =>
      (acceptedAfter m (s.input i) (levels.get i)).map fun e => ⟨i, e, s.count.time⟩ := by
  have seen : (sampleInputs m levels s).cap.seen = s.cap.seen ++ acceptedEdges levels (spacingRaised m s) := rfl
  simp only [seen, acceptedEdges, quadIndices, spacingRaised_input, spacingRaised_count, acceptedEdge_elapse]

/-- The accepted edges wait in the order of their inputs, stamped with the count that the advance has reached (log
16). -/
theorem takeAdvance_seen : (takeAdvance m levels s).cap.seen = s.cap.seen ++
    ([0, 1, 2, 3] : List CapId).filterMap fun i =>
      (acceptedAfter m (s.input i) (levels.get i)).map fun e => ⟨i, e, (takeAdvance m levels s).count.time⟩ := by
  have sampled : ∀ u : State, u.cap = s.cap → (sampleInputs m levels (runLease m u)).cap.seen = s.cap.seen ++
      ([0, 1, 2, 3] : List CapId).filterMap fun i =>
        (acceptedAfter m (s.input i) (levels.get i)).map fun e => ⟨i, e, u.count.time⟩ := fun u hu => by
    simp only [sampleInputs_seen, State.input, runLease_cap, runLease_count, hu]
  rw [takeAdvance_count, takeAdvance, sampled _ (moveCount_cap m s)]

end Sampled

end Sys2Proof.Machine

namespace Sys2Proof.Proofs

open Sys2Proof.Machine

/-- Settles O28: the bridge is `takeAdvance`, and an ADVANCE is `takeAdvance` on a state with the same inputs. -/
theorem advanceSamplesInputs : Obligations.AdvanceSamplesInputs := by
  unfold Obligations.AdvanceSamplesInputs
  intro levels m s
  refine ⟨fun hrun hm => ?_, takeAdvance_sampled m levels s, takeAdvance_seen m levels s⟩
  subst hm
  exact ⟨_, exec_advance_of_running levels hrun, takeAdvance_sampled _ levels (slewApplied s),
    takeAdvance_seen _ levels (slewApplied s)⟩

end Sys2Proof.Proofs
end

section
/-! CAPTURE of the oldest edge that waits: the record and its notices (R138, R139, R140). -/

namespace Sys2Proof.Machine

/-! ### The notices of a capture (R140) -/

theorem captureNotice_post (i : CapId) (g h : HostId) (n : Notice) (s : State) :
    captureNotice (post h n s) i g = captureNotice s i g := by
  simp [captureNotice, owedOn, conditionFlags, holdover]

/-- Distinct hosts are posted their notices one after the other. -/
theorem postCaptures_box (i : CapId) (g : HostId) {l : List HostId} (hl : l.Nodup) (s : State) :
    (l.foldl (fun s h => post h (captureNotice s i h) s) s).box g =
      if g ∈ l ∧ s.attached g = true then (s.box g).post (captureNotice s i g) else s.box g := by
  induction l generalizing s with
  | nil => simp
  | cons h l ih =>
    obtain ⟨hnot, hl⟩ := List.nodup_cons.1 hl
    rw [List.foldl_cons, ih hl, post_attached, captureNotice_post, post_box]
    by_cases hg : g = h
    · subst hg
      simp [hnot]
    · simp [hg]

/-- The notice that a capture on input `i` posts to a subscriber of class `cls`, under the conditions of `s`, with `log`
the records after it (R140). -/
def noticeOfCapture (s : State) (log : List CapRecord) (i : CapId) (h : HostId) (cls : Nat) : Notice :=
  let owing := log.filter fun r => decide (r.input = i) && r.owed.get h
  ⟨.capture, cls, (owing.head?.map (·.stamp)).getD 0, some (.input i), none, 1, some (.number owing.length),
    ⟨false, holdover s, s.count.setState = .retained, false⟩⟩

theorem owedOn_eq (s : State) (h : HostId) (i : CapId) :
    owedOn s h i = s.cap.log.filter fun r => decide (r.input = i) && r.owed.get h := by
  rw [owedOn]
  exact List.filter_congr fun r _ => by simp

theorem captureNotice_eq {s : State} {i : CapId} {h : HostId} {cls : Nat}
    (hc : (s.input i).subscribers.get h = some cls) : captureNotice s i h = noticeOfCapture s s.cap.log i h cls := by
  rw [captureNotice, hc, owedOn_eq]
  rfl

section Captured

variable {e : SeenEdge} {rest : List SeenEdge} {s : State} (hs : s.cap.seen = e :: rest)
  (hn : ∃ h, (s.input e.input).subscribers.get h ≠ none)

include hs hn

/-- The notices posted leave the capture unit as the record has left it. -/
theorem takeCapture_cap : (takeCapture s).cap = (recorded e rest s).cap := by
  rw [takeCapture_of_subscriber hs hn]
  obtain ⟨-, -, -, -, -, -, hcap, -⟩ := postCaptures_frame e.input _ (recorded e rest s)
  exact hcap (by simp)

theorem takeCapture_input (i : CapId) : (takeCapture s).input i = (recorded e rest s).input i := by
  rw [State.input, takeCapture_cap hs hn]
  rfl

/-- Each subscriber is posted its notice, of the class it subscribed with (R140). -/
theorem takeCapture_box (h : HostId) : (takeCapture s).box h = match (s.input e.input).subscribers.get h with
    | none => s.box h
    | some cls => if s.attached h
      then (s.box h).post (noticeOfCapture s (takeCapture s).cap.log e.input h cls) else s.box h := by
  have hframe := recorded_frame e rest s
  have hatt := hframe.attached (by simp) h
  obtain ⟨hcount, hsup, -, hnotices, -⟩ := hframe
  have hbox : (recorded e rest s).box h = s.box h := by rw [State.box, hnotices (by simp)]; rfl
  rw [takeCapture_cap hs hn, takeCapture_of_subscriber hs hn, postCaptures_box _ _ (hostsWhere_nodup _), hatt, hbox]
  cases hc : (s.input e.input).subscribers.get h with
  | none => exact if_neg fun c => subscribed_eq_true.1 (mem_hostsWhere.1 c.1) hc
  | some cls =>
    have member : h ∈ hostsWhere (subscribed (s.input e.input)) :=
      mem_hostsWhere.2 (subscribed_eq_true.2 fun c => by rw [hc] at c; cases c)
    have hsub : ((recorded e rest s).input e.input).subscribers.get h = some cls := by rw [recorded_input, hc]
    have posted : captureNotice (recorded e rest s) e.input h =
        noticeOfCapture s (recorded e rest s).cap.log e.input h cls := by
      rw [captureNotice_eq hsub, noticeOfCapture, holdover, hsup (by simp), hcount (by simp)]
      rfl
    rw [posted]
    simp only [member, true_and]

end Captured

end Sys2Proof.Machine

namespace Sys2Proof.Proofs

open Sys2Proof.Machine

/-- Settles O54: CAPTURE by whether an edge waits and whether its input has subscribers. -/
theorem captureMakesRecord : Obligations.CaptureMakesRecord := by
  unfold Obligations.CaptureMakesRecord
  intro s hrun
  have hexec : exec .capture s = .next (takeCapture s) := congrArg Host.Outcome.next (whileRunning_of_running hrun)
  refine ⟨fun hs => ?_, fun e rest hs => ⟨fun hn => ?_, fun hn => ?_⟩⟩
  · rw [hexec, takeCapture_of_nil hs]
  · rw [hexec, takeCapture_of_no_subscriber hs hn]
  · have hcap := takeCapture_cap hs hn
    refine ⟨_, hexec, takeCapture_frame s, ?_, ?_, ?_, fun i => ⟨?_, fun h => ?_⟩, takeCapture_box hs hn⟩
    · rw [hcap, recorded_log]
      simp only [decide_eq_true_eq]
      rfl
    · rw [hcap, recorded_serial]
    · rw [hcap, recorded_seen]
    · rw [takeCapture_input hs hn]
      exact recorded_input e rest s i
    · rw [takeCapture_input hs hn]
      exact recorded_gaps e rest s i h

end Sys2Proof.Proofs
end

section
/-! UNSUBSCRIBE and READ_CAPTURE: an input left with its records, one record read, the gap counters reported and cleared
(R143, R144). -/

namespace Sys2Proof.Machine

/-! ### UNSUBSCRIBE (R143) -/

section Unsubscribe

variable {h : HostId} {input : Byte} {i : CapId} {s : State}

theorem unsubscribeAt_out_of_range (hout : 4 ≤ input.toNat) : unsubscribeAt h input s = (s, .bare .range) := by
  rw [unsubscribeAt, inputOf_out_of_range hout]

theorem unsubscribeAt_of_not_subscribed (hi : input.toNat = i.val) (hn : (s.input i).subscribers.get h = none) :
    unsubscribeAt h input s = (s, .bare .state) := by
  rw [unsubscribeAt, inputOf_of_val hi]
  exact if_neg fun c => subscribed_eq_true.1 c hn

theorem unsubscribeAt_of_subscribed (hi : input.toNat = i.val) (hn : (s.input i).subscribers.get h ≠ none) :
    unsubscribeAt h input s = (removeSubscriber h i s,
      .okWith (byteOf (owedOn s h i).length ++ byteOf ((s.input i).gaps.get h))) := by
  rw [unsubscribeAt, inputOf_of_val hi]
  exact if_pos (subscribed_eq_true.2 hn)

end Unsubscribe

/-! ### What READ_CAPTURE reads (R144) -/

/-- Whether READ_CAPTURE of `which` asks for input `i`: it names it, or ANY. -/
def asksFor (which : Byte) (i : CapId) : Bool := which = 0xFF || which.toNat = i.val

/-- The gap mask of READ_CAPTURE, and the four counters of `h`, 0 where not asked for (R144, R181). -/
def gapsReported (h : HostId) (which : Byte) (s : State) : List Byte :=
  (if which = 0xFF then 15 else BitVec.ofNat 8 (2 ^ which.toNat)) ::
    ([0, 1, 2, 3] : List CapId).map fun i => if asksFor which i then BitVec.ofNat 8 ((s.input i).gaps.get h) else 0

theorem whichOf_out_of_range {which : Byte} (hout : 4 ≤ which.toNat) (hany : which ≠ 0xFF) : whichOf which = none := by
  rw [whichOf, if_neg hany, inputOf_out_of_range hout]
  rfl

/-- The bit of one input in a gap mask. -/
theorem gapMask_of_one (i : CapId) :
    bitsToNat (quadIndices.map fun j => (some i).all fun w => decide (w = j)) = 2 ^ i.val := by
  match i with
  | 0 => rfl
  | 1 => rfl
  | 2 => rfl
  | 3 => rfl

/-- What `which` asks for, and the mask that reports it. -/
theorem whichOf_of_range {which : Byte} (hin : which.toNat < 4 ∨ which = 0xFF) :
    ∃ w, whichOf which = some w ∧ (∀ i, (w.all fun j => decide (j = i)) = asksFor which i) ∧
      BitVec.ofNat 8 (bitsToNat (quadIndices.map fun i => w.all fun j => decide (j = i))) =
        (if which = 0xFF then 15 else BitVec.ofNat 8 (2 ^ which.toNat)) := by
  by_cases hany : which = 0xFF
  · subst hany
    exact ⟨none, rfl, fun _ => rfl, rfl⟩
  · have hlt : which.toNat < 4 := hin.resolve_right hany
    refine ⟨some ⟨which.toNat, hlt⟩, ?_, fun i => ?_, ?_⟩
    · rw [whichOf, if_neg hany, inputOf_of_val (i := ⟨which.toNat, hlt⟩) rfl]
      rfl
    · rw [asksFor, decide_eq_false hany, Bool.false_or, Option.all_some]
      exact decide_eq_decide.2 Fin.ext_iff
    · rw [gapMask_of_one, if_neg hany]

/-- Whether READ_CAPTURE of `which` reads a record: it owes `h` and is of an input asked for (R144). -/
def readableOf (h : HostId) (which : Byte) (r : CapRecord) : Bool := r.owed.get h && asksFor which r.input

section ReadCapture

variable {h : HostId} {which : Byte} {s : State}

theorem readCaptureAt_out_of_range (hout : 4 ≤ which.toNat) (hany : which ≠ 0xFF) :
    readCaptureAt h which s = (s, .bare .range) := by
  rw [readCaptureAt, whichOf_out_of_range hout hany]

/-- The answer of READ_CAPTURE from `s`, with `t` the state it leaves (R144). -/
def readReply (h : HostId) (which : Byte) (s t : State) : Reply :=
  match s.cap.log.find? (readableOf h which) with
  | none => ⟨.empty, [0, 0] ++ gapsReported h which s⟩
  | some r => .okWith (captureBytes r ++ byteOf (owedOn t h r.input).length ++ byteOf (owedAny t h).length ++
      gapsReported h which s)

theorem readReply_of_none {t : State} (hl : ∀ r ∈ s.cap.log, readableOf h which r = false) :
    readReply h which s t = ⟨.empty, [0, 0] ++ gapsReported h which s⟩ := by
  rw [readReply, List.find?_eq_none.2 fun r hr => Bool.eq_false_iff.1 (hl r hr)]

theorem readReply_of_split {t : State} {before after : List CapRecord} {r : CapRecord}
    (hl : s.cap.log = before ++ r :: after) (hb : ∀ x ∈ before, readableOf h which x = false)
    (hr : readableOf h which r = true) :
    readReply h which s t = .okWith (captureBytes r ++ byteOf (owedOn t h r.input).length ++
      byteOf (owedAny t h).length ++ gapsReported h which s) := by
  have hfind : s.cap.log.find? (readableOf h which) = some r :=
    List.find?_eq_some_iff_append.2 ⟨hr, before, after, hl, fun x hx => by rw [hb x hx]; rfl⟩
  rw [readReply, hfind]

/-- READ_CAPTURE in range: a record is read where there is one to read, and the gap counters asked for are cleared
(R144). -/
theorem readCaptureAt_of_range (h : HostId) (s : State) (hin : which.toNat < 4 ∨ which = 0xFF) : ∃ t,
    OnlyGaps { s with cap := { s.cap with log := readFirst h (readableOf h which) s.cap.log } } t ∧
    (∀ i, t.input i = if asksFor which i
      then { s.input i with gaps := (s.input i).gaps.set h 0 } else s.input i) ∧
    readCaptureAt h which s = (t, readReply h which s t) := by
  obtain ⟨w, hw, hasks, hmask⟩ := whichOf_of_range hin
  have hread : readable h w = readableOf h which := funext fun r => by
    rw [readableOf, ← hasks, readable]
    simp only [eq_comm]
  have hgaps : gapBytes h w s = gapsReported h which s := by
    rw [gapBytes, gapsReported, ← hmask]
    simp only [hasks]
    rfl
  refine ⟨_, clearGaps_onlyGaps h w _, fun i => ?_, ?_⟩
  · rw [clearGaps_input, hasks]
    rfl
  · rw [readCaptureAt, hw, readReply]
    dsimp only
    rw [hread, hgaps]
    cases hfind : s.cap.log.find? (readableOf h which) with
    | none =>
      rw [readFirst_of_none fun r hr => Bool.eq_false_iff.2 (List.find?_eq_none.1 hfind r hr)]
      rfl
    | some r => rfl

end ReadCapture

end Sys2Proof.Machine

namespace Sys2Proof.Proofs

open Sys2Proof.Machine

/-- UNSUBSCRIBE of a subscriber (R143): the records it is owed there, and what is left of the others. -/
theorem unsubscribe_taken {h : HostId} {q input : Byte} {i : CapId} {s : State} (ht : Takes h 0x72 q s)
    (hi : input.toNat = i.val) (hn : (s.input i).subscribers.get h ≠ none) :
    ∃ t, exec (.unsubscribe h q input) s = .next t ∧ RequestFrame h [.cap] s t ∧
      (∀ j, t.input j = if j = i then (s.input i).without h else s.input j) ∧
      t.cap.log = dropOwed h (fun r => r.input = i) s.cap.log ∧
      t.cap.serial = s.cap.serial ∧ t.cap.seen = s.cap.seen ∧
      Answers h 0x72 q .ok (byteOf (owedOn s h i).length ++ byteOf ((s.input i).gaps.get h)) t := by
  obtain ⟨e, hf, ha⟩ := takes_held (r := .unsubscribe input) ht rfl (fun c => by cases c)
    (congrArg atOnce (unsubscribeAt_of_subscribed (s := requestTaken h q (.unsubscribe input) s) hi hn))
    (removeSubscriber_frame _ _ _) (by simp)
  exact ⟨_, e, hf, removeSubscriber_input h i _, removeSubscriber_log h i _, rfl, rfl, ha⟩

/-- READ_CAPTURE in range (R144): what it leaves of the log and the counters, and its answer. -/
theorem readCapture_taken {h : HostId} {q which : Byte} {s : State} (ht : Takes h 0x73 q s)
    (hin : which.toNat < 4 ∨ which = 0xFF) :
    ∃ t, exec (.readCapture h q which) s = .next t ∧ RequestFrame h [.cap] s t ∧
      (∀ i, t.input i = if asksFor which i
        then { s.input i with gaps := (s.input i).gaps.set h 0 } else s.input i) ∧
      t.cap.log = readFirst h (readableOf h which) s.cap.log ∧ t.cap.serial = s.cap.serial ∧ t.cap.seen = s.cap.seen ∧
      Answers h 0x73 q (readReply h which s t).result (readReply h which s t).payload t := by
  obtain ⟨t, hgaps, hinput, hc⟩ := readCaptureAt_of_range h (requestTaken h q (.readCapture which) s) hin
  have hframe := readCaptureAt_frame h which (requestTaken h q (.readCapture which) s)
  rw [hc] at hframe
  obtain ⟨e, hf, ha⟩ := takes_held (r := .readCapture which) ht rfl (fun c => by cases c) (congrArg atOnce hc)
    hframe (by simp)
  exact ⟨_, e, hf, hinput, hgaps.log, hgaps.serial, hgaps.seen, ha⟩

/-- Settles O56: each command by the cases of its rule; the record read is the first of the log that owes the caller. -/
theorem unsubscribeAndReadCapture : Obligations.UnsubscribeAndReadCapture := by
  unfold Obligations.UnsubscribeAndReadCapture
  intro h q s empty
  refine ⟨fun ht input => ⟨fun hout => ?_, fun i hi => ⟨fun hn => ?_, fun hn _ => ?_⟩⟩,
    fun ht which => ⟨fun hout hany => ?_, fun hin => ?_⟩⟩
  · exact boxRequest_unchanged (r := .unsubscribe input) ht rfl rfl
      (congrArg atOnce (unsubscribeAt_out_of_range hout))
  · exact boxRequest_unchanged (r := .unsubscribe input) ht rfl rfl
      (congrArg atOnce (unsubscribeAt_of_not_subscribed (s := requestTaken h q (.unsubscribe input) s) hi hn))
  · obtain ⟨t, e, hf, hinput, hlog, hserial, hseen, ha⟩ := unsubscribe_taken ht hi hn
    refine ⟨t, e, hf, hinput, ?_, hserial, hseen, owedOn_eq s h i ▸ ha⟩
    rw [hlog, dropOwed_eq]
    simp only [empty, Bool.not_not, decide_eq_true_eq]
    rfl
  · exact boxRequest_unchanged (r := .readCapture which) ht rfl rfl
      (congrArg atOnce (readCaptureAt_out_of_range hout hany))
  · obtain ⟨t, e, hf, hinput, hlog, hserial, hseen, ha⟩ := readCapture_taken ht hin
    refine ⟨t, e, hf, hinput, hserial, hseen, fun hnone => ?_, fun before r after hl hb hr => ⟨?_, ?_⟩⟩
    · rw [readReply_of_none hnone] at ha
      exact ⟨hlog.trans (readFirst_of_none hnone), ha⟩
    · have kept : (if owedToSome (disowned h r) then [disowned h r] else []) =
          if empty (disowned h r) then [] else [disowned h r] := by
        show _ = if (!owedToSome (disowned h r)) = true then _ else _
        cases owedToSome (disowned h r) <;> rfl
      rw [hlog, hl, readFirst_of_split (p := readableOf h which) hb hr, kept]
      rfl
    · rw [readReply_of_split (which := which) hl hb hr, owedOn_eq] at ha
      exact ha

end Sys2Proof.Proofs
end

section
/-! Transactions at a port: what one shows whose first byte is complete, and what becomes of a SEND that is refused, cut
short, damaged, a retry, or no request the part knows (R149 to R156). -/

namespace Sys2Proof.Machine

/-! ### One port replaced -/

@[simp] theorem State.setPort_setPort (s : State) (h : HostId) (x y : Port) :
    (s.setPort h x).setPort h y = s.setPort h y := by
  simp [State.setPort]

/-- Port `h` replaced, the other ports and the other parts left. -/
theorem setPort_others (h : HostId) (x : Port) (s : State) :
    OnlyChanges [.ports] s (s.setPort h x) ∧ (∀ g, g ≠ h → (s.setPort h x).port g = s.port g) ∧
      (s.setPort h x).port h = x :=
  ⟨setPort_frame h x s, fun g hg => by rw [State.setPort_port, if_neg hg], State.setPort_port_self s h x⟩

/-- Port `h` replaced by one with the same session and reset line: nothing else changes. -/
theorem setPort_spec {h : HostId} {x : Port} {s : State} (ha : x.attached = (s.port h).attached)
    (hl : x.hrst = (s.port h).hrst) :
    ∃ t, (Host.Outcome.next (s.setPort h x) : Host.Outcome State Fault Refusal) = .next t ∧
      OnlyChanges [.ports] s t ∧ PortFrame h s t ∧ t.port h = x := by
  obtain ⟨hother, hports, hport⟩ := setPort_others h x s
  refine ⟨_, rfl, hother, ⟨hports, ?_, ?_⟩, hport⟩
  · rw [State.attached, hport, ha]
    rfl
  · rw [hport, hl]

/-! ### Showing the status (R149, R150) -/

section ShowStatus

variable (h : HostId) (more : List Byte) (s : State)

@[simp] theorem showStatus_port : (showStatus h more s).port h =
    { s.port h with refused := false, runt := false, shifted := statusByte s h :: more } :=
  State.setPort_port_self s h _

@[simp] theorem showStatus_setPort (x : Port) : (showStatus h more s).setPort h x = s.setPort h x :=
  State.setPort_setPort s h _ x

end ShowStatus

section OpenPort

variable {h : HostId} {s : State}

theorem transaction_of_poll (ho : portOpen s h = true) {b : Byte} (hs : b ≠ 0xA5) (hf : b ≠ 0x5A) (more : List Byte)
    (levels : Quad Level) : transaction h b more levels s = showStatus h (fill more.length) s := by
  rw [transaction, if_pos ho, kindOf_poll hs hf]

theorem transaction_of_fetch (ho : portOpen s h = true) (more : List Byte) (levels : Quad Level) :
    transaction h 0x5A more levels s = showStatus h (fetchBytes (s.port h) more.length) s := by
  rw [transaction, if_pos ho, kindOf_fetch]

theorem exec_send_of_open (ho : portOpen s h = true) (bs : List Byte) (levels : Quad Level) :
    exec (.send h bs levels) s = .next (releaseSend h bs levels (showStatus h (fill bs.length) s)) := by
  show Host.Outcome.next (transaction h 0xA5 bs levels s) = _
  rw [transaction, if_pos ho, kindOf_send]

end OpenPort

/-- The first byte gives the kind of a transaction, in a row POLL too (R178). -/
theorem transaction_fetch_length (h : HostId) (more : List Byte) (levels : Quad Level) (s : State) :
    transaction h 0x5A more levels s = transaction h 0x5A (List.replicate more.length 0) noLevels s := by
  simp only [transaction, kindOf_fetch, List.length_replicate]

/-- A closed port ignores a host command as it ignores every transaction (log 3). -/
theorem requestRow_ignored {h : HostId} {s : State} (hc : portOpen s h = false) (q : Byte) (r : Request)
    (levels : Quad Level) : requestRow h q r levels s = showNothing h s := by
  simp [requestRow, hc]

/-! ### A frame that passed its check (R154, R155) -/

/-- No request is in progress at port `h`. -/
def NotWorking (h : HostId) (s : State) : Prop := ∀ op q, (s.port h).phase ≠ .working op q

theorem NotWorking.showStatus {h : HostId} {s : State} (hw : NotWorking h s) (more : List Byte) :
    NotWorking h (showStatus h more s) := by
  intro op q
  rw [showStatus_port]
  exact hw op q

theorem retryOf_of_record {p : Port} {op q : Byte} {x : Answer} {y : Executed} (hx : p.phase = .answered x)
    (hy : p.record = some y) (hop : y.op = op) (hseq : y.seq = q) : retryOf p op q = some y := by
  simp [retryOf, hx, hy, hop, hseq]

section TakeChecked

variable {h : HostId} {op q : Byte} {act : State → State × Option Reply} {s : State}

theorem takeChecked_of_working {o p : Byte} (hp : (s.port h).phase = .working o p) :
    takeChecked h op q act s = s.setPort h { s.port h with refused := true } := by
  simp only [takeChecked, hp]

theorem takeChecked_of_retry {y : Executed} (hw : NotWorking h s) (hy : retryOf (s.port h) op q = some y) :
    takeChecked h op q act s = s.setPort h { s.port h with phase := .answered y.answer } := by
  unfold takeChecked
  cases hp : (s.port h).phase with
  | working o p => exact absurd hp (hw o p)
  | idle | answered x => simp only [hp, hy]

theorem takeChecked_of_new (hw : NotWorking h s) (hn : retryOf (s.port h) op q = none) :
    takeChecked h op q act s =
      settleRequest h op q (act (s.setPort h { s.port h with phase := .working op q })) := by
  unfold takeChecked
  cases hp : (s.port h).phase with
  | working o p => exact absurd hp (hw o p)
  | idle | answered x =>
    simp only [hp, hn]
    rcases act (s.setPort h { s.port h with phase := .working op q }) with ⟨t, _ | x⟩ <;> rfl

/-- A new request refused as it is validated: its answer is held, and nothing else has changed. -/
theorem takeChecked_of_refused {x : Result} (hw : NotWorking h s) (hn : retryOf (s.port h) op q = none)
    (hact : ∀ u, act u = (u, some (.bare x))) :
    takeChecked h op q act s = s.setPort h { s.port h with
      phase := .answered ⟨op, q, x, []⟩, record := some ⟨op, q, ⟨op, q, x, []⟩⟩ } := by
  rw [takeChecked_of_new hw hn, hact]
  simp [settleRequest, holdAnswer, Reply.bare]

end TakeChecked

/-! ### The release of the select (R153, R154) -/

section ReleaseSend

variable {h : HostId} {bs : List Byte} {levels : Quad Level} {f : Frame} {s : State}

theorem releaseSend_of_working {o p : Byte} (hp : (s.port h).phase = .working o p) :
    releaseSend h bs levels s = s.setPort h { s.port h with refused := true } := by
  simp only [releaseSend, hp]

theorem releaseSend_of_runt (hw : NotWorking h s) (hf : parseFrame bs = none) :
    releaseSend h bs levels s = s.setPort h { s.port h with runt := true } := by
  unfold releaseSend
  cases hp : (s.port h).phase with
  | working o p => exact absurd hp (hw o p)
  | idle | answered x => simp only [hp, hf]

theorem releaseSend_of_bad_check (hw : NotWorking h s) (hf : parseFrame bs = some f) (hc : f.passes = false) :
    releaseSend h bs levels s =
      s.setPort h { s.port h with phase := .answered ⟨f.op, f.seq, .badCheck, []⟩ } := by
  unfold releaseSend
  cases hp : (s.port h).phase with
  | working o p => exact absurd hp (hw o p)
  | idle | answered x => simp only [hp, hf, hc, Bool.false_eq_true, if_false]

theorem releaseSend_of_passes (hf : parseFrame bs = some f) (hc : f.passes = true) :
    releaseSend h bs levels s = takeChecked h f.op f.seq (validateFrame h levels f) s := by
  cases hp : (s.port h).phase with
  | working o p => rw [releaseSend_of_working hp, takeChecked_of_working hp]
  | idle | answered x => simp only [releaseSend, hp, hf, hc, if_true]

end ReleaseSend

theorem Frame.passes_eq_false {f : Frame} (hc : f.check ≠ crc16 (checkedBytes f.op f.seq f.payload)) :
    f.passes = false := decide_eq_false hc

end Sys2Proof.Machine

namespace Sys2Proof.Proofs

open Sys2Proof.Machine

/-- Settles O14: each row is the transaction that its first byte asks for, at an open port; a closed port ignores it. -/
theorem pollAndFetch : Obligations.PollAndFetch := by
  unfold Obligations.PollAndFetch
  intro h n s
  refine ⟨fun ho b more hs hf => ?_, fun ho => ?_, fun more => ⟨?_, rfl⟩, ?_⟩
  · show ∃ t, Host.Outcome.next (transaction h b more noLevels s) = _ ∧ _
    rw [transaction_of_poll ho hs hf]
    exact setPort_spec rfl rfl
  · show ∃ t, Host.Outcome.next (transaction h 0x5A (List.replicate n 0) noLevels s) = _ ∧ _
    rw [transaction_of_fetch ho, List.length_replicate]
    cases hp : (s.port h).phase with
    | idle | working o q | answered x =>
      rw [fetchBytes, hp]
      exact setPort_spec rfl rfl
  · exact congrArg Host.Outcome.next (transaction_fetch_length h more noLevels s)
  · intro c hc
    have ignored : exec c s = .next (showNothing h s) := by
      rcases hc with ⟨more, rfl⟩ | ⟨hclosed, ⟨_ | b, more, rfl⟩ | rfl | ⟨bs, levels, rfl⟩ | ⟨q, r, levels, hi⟩⟩
      · rfl
      · rfl
      · exact congrArg Host.Outcome.next (transaction_ignored hclosed b more noLevels)
      · exact congrArg Host.Outcome.next (transaction_ignored hclosed 0x5A _ noLevels)
      · exact congrArg Host.Outcome.next (transaction_ignored hclosed 0xA5 bs levels)
      · obtain ⟨hexec, -⟩ := hostCommand_row hi
        rw [hexec, requestRow_ignored hclosed]
    exact ⟨_, ignored, showNothing_spec h s⟩

/-- Settles O15: the rows of R153 to R155 in their order; in each the release of the select replaces the port alone. -/
theorem sendNotTaken : Obligations.SendNotTaken := by
  unfold Obligations.SendNotTaken
  intro h bs levels s ho shown
  rw [exec_send_of_open ho]
  refine ⟨fun ⟨op, q, hp⟩ => ?_, fun hw => ⟨fun hf => ?_, fun f hf => ⟨fun hc => ?_, fun hc x y hx hy hop hseq => ?_⟩⟩⟩
  · rw [releaseSend_of_working (by rw [showStatus_port]; exact hp), showStatus_setPort, showStatus_port]
    exact setPort_spec rfl rfl
  · rw [releaseSend_of_runt (NotWorking.showStatus hw _) hf, showStatus_setPort, showStatus_port]
    exact setPort_spec rfl rfl
  · rw [releaseSend_of_bad_check (NotWorking.showStatus hw _) hf (Frame.passes_eq_false hc), showStatus_setPort,
      showStatus_port]
    exact setPort_spec rfl rfl
  · have retry : retryOf ((showStatus h (fill bs.length) s).port h) f.op f.seq = some y := by
      rw [showStatus_port]
      exact retryOf_of_record hx hy hop hseq
    rw [releaseSend_of_passes hf hc, takeChecked_of_retry (NotWorking.showStatus hw _) retry, showStatus_setPort,
      showStatus_port]
    exact setPort_spec rfl rfl

end Sys2Proof.Proofs
end

section
/-! Request frames: a command read back from its frame, and the table of opcodes and payload lengths (R152, R153, R179,
R180). -/

namespace Sys2Proof.Machine

/-! ### The fields of a payload (R179) -/

@[simp] theorem fieldAt_cons_succ (b : Byte) (p : List Byte) (k n : Nat) :
    fieldAt (b :: p) (k + 1) n = fieldAt p k n := rfl

@[simp] theorem byteAt_cons_zero (b : Byte) (p : List Byte) : byteAt (b :: p) 0 = b := by
  simp [byteAt, fieldAt, numOf]

@[simp] theorem byteAt_cons_succ (b : Byte) (p : List Byte) (k : Nat) : byteAt (b :: p) (k + 1) = byteAt p k := rfl

/-- A field behind another one. -/
theorem fieldAt_bytesOf_append {m k : Nat} (hk : m ≤ k) (v n : Nat) (p : List Byte) :
    fieldAt (bytesOf m v ++ p) k n = fieldAt p (k - m) n := by
  have front : (bytesOf m v).drop k = [] := List.drop_eq_nil_of_le (by rwa [length_bytesOf])
  rw [fieldAt, List.drop_append, front, List.nil_append, length_bytesOf, fieldAt]

/-- A byte behind a field. -/
theorem byteAt_bytesOf_append {m k : Nat} (hk : m ≤ k) (v : Nat) (p : List Byte) :
    byteAt (bytesOf m v ++ p) k = byteAt p (k - m) := by
  rw [byteAt, fieldAt_bytesOf_append hk]
  rfl

/-- The first field of a payload, read back as the bit vector it was sent from. -/
theorem ofNat_fieldAt_append {w n : Nat} (hw : w = 8 * n) (v : BitVec w) (p : List Byte) :
    BitVec.ofNat w (fieldAt (bytesOf n v.toNat ++ p) 0 n) = v := by
  have field : fieldAt (bytesOf n v.toNat ++ p) 0 n = numOf (bytesOf n v.toNat) := by
    simpa using fieldAt_append [] (bytesOf n v.toNat) p
  rw [field, ofNat_numOf_bytesOf n v hw]

/-- The same for a field that is the whole of what is left. -/
theorem ofNat_fieldAt {w n : Nat} (hw : w = 8 * n) (v : BitVec w) :
    BitVec.ofNat w (fieldAt (bytesOf n v.toNat) 0 n) = v := by
  simpa using ofNat_fieldAt_append hw v []

/-! ### A command read back from its payload (R180) -/

theorem ofLength_of_eq {n : Nat} {p : List Byte} (hp : p.length = n) (r : Request) : ofLength n p r = some r :=
  if_pos hp

theorem ofLength_of_ne {n : Nat} {p : List Byte} (hp : p.length ≠ n) (r : Request) : ofLength n p r = none :=
  if_neg hp

/-- ARM without a pin action. -/
theorem decodeRequest_arm_short {p : List Byte} (hp : p.length = 24) :
    decodeRequest 0x42 p = some (armFields p none) := if_pos hp

/-- ARM with a pin action. -/
theorem decodeRequest_arm_long {p : List Byte} (hp : p.length = 26) :
    decodeRequest 0x42 p = some (armFields p (some (byteAt p 24, byteAt p 25))) :=
  (if_neg (by omega)).trans (if_pos hp)

/-- The nine fields of an ARM, before the pin action that may follow them. -/
theorem armFields_append (v : ArmArg) (rest : List Byte) (a : Option (Byte × Byte)) :
    armFields (v.slot :: v.kind :: v.basis :: (bytesOf 9 v.when.toNat ++ (bytesOf 8 v.period.toNat ++
      (v.cls :: v.notify :: (bytesOf 2 v.tag.toNat ++ rest))))) a = .arm { v with pinAction := a } := by
  simp [armFields, fieldAt_bytesOf_append, byteAt_bytesOf_append, ofNat_fieldAt_append]

theorem decodeRequest_payloadOf {r : Request} (hw : r.wellFormed = true) :
    decodeRequest (opcodeOf r) (payloadOf r) = some r := by
  cases r with
  | attach | detach | status | sessions | readTime | timeStatus | sourceStatus | release | withdraw | authStatus | alloc
  | take | ack | peek => rfl
  | echo data => exact if_pos hw
  | free slot | cancel slot | timerStatus slot | setThreshold v | unbindPin pin | pinStatus pin | unsubscribe input
  | readCapture which =>
    refine (ofLength_of_eq rfl _).trans ?_
    rw [payloadOf, byteAt_cons_zero]
  | drivePin pin action | setEdges input selection | subscribe input cls =>
    refine (ofLength_of_eq rfl _).trans ?_
    rw [payloadOf, byteAt_cons_succ, byteAt_cons_zero, byteAt_cons_zero]
  | setSources v =>
    refine (ofLength_of_eq rfl _).trans ?_
    simp [payloadOf]
  | setTime v | step v | slew v | setTrim source trim | claim lease | bindPin pin idle width =>
    refine (ofLength_of_eq (by simp [payloadOf]) _).trans ?_
    simp [payloadOf, fieldAt_bytesOf_append, ofNat_fieldAt_append, ofNat_fieldAt]
  | arm v =>
    obtain ⟨slot, kind, basis, when, period, cls, notify, tag, _ | ⟨pin, action⟩⟩ := v
    · refine (decodeRequest_arm_short (by simp [payloadOf])).trans ?_
      exact congrArg some (armFields_append ⟨slot, kind, basis, when, period, cls, notify, tag, none⟩ [] none)
    · refine (decodeRequest_arm_long (by simp [payloadOf])).trans ?_
      rw [payloadOf, armFields_append ⟨slot, kind, basis, when, period, cls, notify, tag, some (pin, action)⟩]
      simp [byteAt_bytesOf_append]

/-! ### A command's frame (R152, R153) -/

/-- Every payload fits the length byte of its frame. -/
theorem length_payloadOf_le {r : Request} (hw : r.wellFormed = true) : (payloadOf r).length ≤ 48 := by
  cases r with
  | echo data => exact of_decide_eq_true hw
  | arm v =>
    obtain ⟨slot, kind, basis, when, period, cls, notify, tag, _ | ⟨pin, action⟩⟩ := v <;> simp [payloadOf]
  | _ => simp [payloadOf]

theorem knownOpcode_opcodeOf (r : Request) : knownOpcode (opcodeOf r) = true := by
  cases r <;> rfl

/-- The frame of a command as its port receives it. -/
def frameOf (q : Byte) (r : Request) : Frame :=
  ⟨opcodeOf r, q, payloadOf r, crc16 (checkedBytes (opcodeOf r) q (payloadOf r))⟩

theorem frameOf_passes (q : Byte) (r : Request) : (frameOf q r).passes = true := decide_eq_true rfl

theorem length_encodeFrame (q : Byte) (r : Request) : (encodeFrame q r).length = frameLength r := by
  simp only [encodeFrame, frameLength, checkedBytes, List.length_append, List.length_cons, length_checkBytes]
  omega

/-- A frame whose length byte tells its payload is read back whole, whatever follows it. -/
theorem parseFrame_append {op q : Byte} {p : List Byte} (hp : p.length < 256) (x : BitVec 16) (extra : List Byte) :
    parseFrame (checkedBytes op q p ++ (bytesOf 2 x.toNat ++ extra)) = some ⟨op, q, p, x⟩ := by
  have hlen : (BitVec.ofNat 8 p.length).toNat = p.length := by
    rw [BitVec.toNat_ofNat, Nat.mod_eq_of_lt hp]
  have check : fieldAt (p ++ (bytesOf 2 x.toNat ++ extra)) p.length 2 = numOf (bytesOf 2 x.toNat) :=
    fieldAt_append p (bytesOf 2 x.toNat) extra
  simp only [checkedBytes, List.cons_append, parseFrame, hlen]
  rw [if_pos (by simp), List.take_left, check, ofNat_numOf_bytesOf 2 x rfl]

theorem parseFrame_encodeFrame {r : Request} (hw : r.wellFormed = true) (q : Byte) (extra : List Byte) :
    parseFrame (encodeFrame q r ++ extra) = some (frameOf q r) := by
  have hp : (payloadOf r).length < 256 := Nat.lt_of_le_of_lt (length_payloadOf_le hw) (by decide)
  rw [encodeFrame, List.append_assoc]
  exact parseFrame_append hp _ extra

/-! ### Any bytes as a field -/

/-- The low bytes of a number do not see what stands above them. -/
theorem bytesOf_add_mul (n a v : Nat) : bytesOf n (a * 256 ^ n + v) = bytesOf n v := by
  induction n generalizing a with
  | zero => rfl
  | succ n ih =>
    have split : a * 256 ^ (n + 1) + v = a * 256 * 256 ^ n + v := by ring
    have top : (a * 256 * 256 ^ n + v) / 256 ^ n = v / 256 ^ n + a * 256 := by
      rw [Nat.add_comm, Nat.add_mul_div_right _ _ (by positivity)]
    rw [bytesOf, bytesOf, split, ih, top]
    congr 1
    apply BitVec.eq_of_toNat_eq
    simp

theorem numOf_lt (p : List Byte) : numOf p < 256 ^ p.length := by
  induction p with
  | nil => decide
  | cons b p ih =>
    rw [numOf_cons, List.length_cons, pow_succ]
    have hb : b.toNat + 1 ≤ 256 := b.isLt
    have := Nat.mul_le_mul_right (256 ^ p.length) hb
    linarith

theorem bytesOf_numOf (p : List Byte) : bytesOf p.length (numOf p) = p := by
  induction p with
  | nil => rfl
  | cons b p ih =>
    have top : (b.toNat * 256 ^ p.length + numOf p) / 256 ^ p.length = b.toNat := by
      rw [Nat.mul_comm, Nat.mul_add_div (by positivity), Nat.div_eq_of_lt (numOf_lt p), Nat.add_zero]
    rw [List.length_cons, bytesOf, numOf_cons, top, bytesOf_add_mul, ih]
    simp

/-- Bytes of the width of a field are some value of that field. -/
theorem exists_word {n : Nat} {p : List Byte} (hp : p.length = n) : ∃ v : BitVec (8 * n), p = bytesOf n v.toNat := by
  subst hp
  have hlt : numOf p < 2 ^ (8 * p.length) := by
    rw [Nat.pow_mul]
    exact numOf_lt p
  refine ⟨BitVec.ofNat _ (numOf p), ?_⟩
  rw [BitVec.toNat_ofNat, Nat.mod_eq_of_lt hlt, bytesOf_numOf]

/-- A first field, and the rest. -/
theorem exists_word_append (n : Nat) {m : Nat} {p : List Byte} (hp : p.length = n + m) :
    ∃ (v : BitVec (8 * n)) (rest : List Byte), p = bytesOf n v.toNat ++ rest ∧ rest.length = m := by
  obtain ⟨v, hv⟩ := exists_word (n := n) (p := p.take n) (by simp [hp])
  exact ⟨v, p.drop n, by rw [← hv, List.take_append_drop], by simp [hp]⟩

/-- A first byte, and the rest. -/
theorem exists_byte_cons {m : Nat} {p : List Byte} (hp : p.length = m + 1) :
    ∃ b rest, p = b :: rest ∧ rest.length = m := by
  obtain ⟨b, rest, rfl⟩ := List.exists_cons_of_length_eq_add_one hp
  exact ⟨b, rest, rfl, Nat.succ.inj hp⟩

/-! ### The table of opcodes and lengths (R156, R180) -/

/-- A command with this opcode and payload. -/
def Carried (op : Byte) (p : List Byte) : Prop :=
  ∃ r : Request, r.wellFormed = true ∧ opcodeOf r = op ∧ payloadOf r = p

/-- A row of the table: payloads of an accepted length are those of the row's command, and no other is decoded. -/
structure RowOk (op : Byte) (lengths : List Nat) : Prop where
  carried : ∀ p : List Byte, p.length ∈ lengths → Carried op p
  refused : ∀ p : List Byte, p.length ∉ lengths → decodeRequest op p = none

/-- A row that accepts one length. -/
theorem RowOk.of_length {op : Byte} {n : Nat} {d : List Byte → Request}
    (hd : ∀ p, decodeRequest op p = ofLength n p (d p)) (hc : ∀ p : List Byte, p.length = n → Carried op p) :
    RowOk op [n] where
  carried _ hp := hc _ (List.mem_singleton.1 hp)
  refused p hp := (hd p).trans (ofLength_of_ne (mt List.mem_singleton.2 hp) _)

/-- The row of a command without operands. -/
theorem RowOk.of_empty (r : Request) (hd : ∀ p, decodeRequest (opcodeOf r) p = ofLength 0 p r)
    (hw : r.wellFormed = true) (hp : payloadOf r = []) : RowOk (opcodeOf r) [0] :=
  .of_length hd fun _ h => ⟨r, hw, rfl, hp.trans (List.eq_nil_of_length_eq_zero h).symm⟩

/-- The row of a command with one byte. -/
theorem RowOk.of_byte {op : Byte} (f : Byte → Request) (hd : ∀ p, decodeRequest op p = ofLength 1 p (f (byteAt p 0)))
    (hw : ∀ b, (f b).wellFormed = true) (hop : ∀ b, opcodeOf (f b) = op) (hp : ∀ b, payloadOf (f b) = [b]) :
    RowOk op [1] :=
  .of_length hd fun _ h =>
    have ⟨b, hb⟩ := List.length_eq_one_iff.1 h
    ⟨f b, hw b, hop b, (hp b).trans hb.symm⟩

/-- The row of a command with two single bytes. -/
theorem RowOk.of_two_bytes {op : Byte} (f : Byte → Byte → Request)
    (hd : ∀ p, decodeRequest op p = ofLength 2 p (f (byteAt p 0) (byteAt p 1)))
    (hw : ∀ a b, (f a b).wellFormed = true) (hop : ∀ a b, opcodeOf (f a b) = op)
    (hp : ∀ a b, payloadOf (f a b) = [a, b]) : RowOk op [2] :=
  .of_length hd fun _ h =>
    have ⟨a, b, hab⟩ := List.length_eq_two.1 h
    ⟨f a b, hw a b, hop a b, (hp a b).trans hab.symm⟩

theorem rowOk_echo : RowOk 0x04 (List.range 49) where
  carried p hp := ⟨.echo p, decide_eq_true (Nat.lt_succ_iff.1 (List.mem_range.1 hp)), rfl, rfl⟩
  refused _ hp := if_neg fun h => hp (List.mem_range.2 (Nat.lt_succ_of_le (of_decide_eq_true h)))

theorem rowOk_setTime : RowOk 0x12 [9] := by
  refine .of_length (fun _ => rfl) fun p hp => ?_
  obtain ⟨seconds, rest, rfl, hr⟩ := exists_word_append 5 (m := 4) hp
  obtain ⟨nanoseconds, rfl⟩ := exists_word hr
  exact ⟨.setTime ⟨seconds, nanoseconds⟩, rfl, rfl, rfl⟩

theorem rowOk_step : RowOk 0x13 [11] := by
  refine .of_length (fun _ => rfl) fun p hp => ?_
  obtain ⟨sign, p', rfl, hp'⟩ := exists_byte_cons hp
  obtain ⟨seconds, rest, rfl, hr⟩ := exists_word_append 6 (m := 4) hp'
  obtain ⟨nanoseconds, rfl⟩ := exists_word hr
  exact ⟨.step ⟨sign, seconds, nanoseconds⟩, rfl, rfl, rfl⟩

theorem rowOk_slew : RowOk 0x14 [8] := by
  refine .of_length (fun _ => rfl) fun p hp => ?_
  obtain ⟨amount, rfl⟩ := exists_word hp
  exact ⟨.slew amount, rfl, rfl, rfl⟩

theorem rowOk_setTrim : RowOk 0x20 [5] := by
  refine .of_length (fun _ => rfl) fun p hp => ?_
  obtain ⟨source, rest, rfl, hr⟩ := exists_byte_cons hp
  obtain ⟨trim, rfl⟩ := exists_word hr
  exact ⟨.setTrim source trim, rfl, rfl, rfl⟩

theorem rowOk_setSources : RowOk 0x21 [4] := by
  refine .of_length (fun _ => rfl) fun p hp => ?_
  obtain ⟨count, rest, rfl, hr⟩ := exists_byte_cons hp
  obtain ⟨first, second, third, rfl⟩ := List.length_eq_three.1 hr
  exact ⟨.setSources ⟨count, first, second, third⟩, rfl, rfl, rfl⟩

theorem rowOk_claim : RowOk 0x30 [2] := by
  refine .of_length (fun _ => rfl) fun p hp => ?_
  obtain ⟨lease, rfl⟩ := exists_word hp
  exact ⟨.claim lease, rfl, rfl, rfl⟩

theorem rowOk_bindPin : RowOk 0x60 [4] := by
  refine .of_length (fun _ => rfl) fun p hp => ?_
  obtain ⟨pin, p', rfl, hp'⟩ := exists_byte_cons hp
  obtain ⟨idle, rest, rfl, hr⟩ := exists_byte_cons hp'
  obtain ⟨width, rfl⟩ := exists_word hr
  exact ⟨.bindPin pin idle width, rfl, rfl, rfl⟩

/-- The fields of an ARM payload, and the bytes of the pin action behind them. -/
theorem exists_armFields {m : Nat} {p : List Byte} (hp : p.length = 24 + m) :
    ∃ (slot kind basis : Byte) (when : BitVec 72) (period : BitVec 64) (cls notify : Byte) (tag : BitVec 16)
      (rest : List Byte), rest.length = m ∧
      p = slot :: kind :: basis :: (bytesOf 9 when.toNat ++ (bytesOf 8 period.toNat ++
        (cls :: notify :: (bytesOf 2 tag.toNat ++ rest)))) := by
  obtain ⟨slot, p1, rfl, h1⟩ := exists_byte_cons (m := 23 + m) (hp.trans (by omega))
  obtain ⟨kind, p2, rfl, h2⟩ := exists_byte_cons (m := 22 + m) (h1.trans (by omega))
  obtain ⟨basis, p3, rfl, h3⟩ := exists_byte_cons (m := 21 + m) (h2.trans (by omega))
  obtain ⟨when, p4, rfl, h4⟩ := exists_word_append 9 (m := 12 + m) (h3.trans (by omega))
  obtain ⟨period, p5, rfl, h5⟩ := exists_word_append 8 (m := 4 + m) (h4.trans (by omega))
  obtain ⟨cls, p6, rfl, h6⟩ := exists_byte_cons (m := 3 + m) (h5.trans (by omega))
  obtain ⟨notify, p7, rfl, h7⟩ := exists_byte_cons (m := 2 + m) (h6.trans (by omega))
  obtain ⟨tag, rest, rfl, hr⟩ := exists_word_append 2 h7
  exact ⟨slot, kind, basis, when, period, cls, notify, tag, rest, hr, rfl⟩

theorem rowOk_arm : RowOk 0x42 [24, 26] where
  carried p hp := by
    rcases List.mem_pair.1 hp with h | h
    · obtain ⟨slot, kind, basis, when, period, cls, notify, tag, rest, hr, rfl⟩ := exists_armFields (m := 0) h
      obtain rfl := List.eq_nil_of_length_eq_zero hr
      exact ⟨.arm ⟨slot, kind, basis, when, period, cls, notify, tag, none⟩, rfl, rfl, rfl⟩
    · obtain ⟨slot, kind, basis, when, period, cls, notify, tag, rest, hr, rfl⟩ := exists_armFields (m := 2) h
      obtain ⟨pin, action, rfl⟩ := List.length_eq_two.1 hr
      exact ⟨.arm ⟨slot, kind, basis, when, period, cls, notify, tag, some (pin, action)⟩, rfl, rfl, rfl⟩
  refused p hp := by
    have h24 : p.length ≠ 24 := fun h => hp (List.mem_pair.2 (.inl h))
    have h26 : p.length ≠ 26 := fun h => hp (List.mem_pair.2 (.inr h))
    exact (if_neg h24).trans (if_neg h26)

/-- Every row of the table, with the command that its opcode names. -/
theorem rowOk_of_accepted : ∀ row ∈ acceptedLengths, RowOk row.1 row.2 := by
  simp only [acceptedLengths, List.forall_mem_append, List.forall_mem_cons]
  have noRow (P : Byte × List Nat → Prop) : ∀ x ∈ ([] : List (Byte × List Nat)), P x := nofun
  exact ⟨⟨.of_empty .attach (fun _ => rfl) rfl rfl, .of_empty .detach (fun _ => rfl) rfl rfl,
    .of_empty .status (fun _ => rfl) rfl rfl, rowOk_echo, .of_empty .sessions (fun _ => rfl) rfl rfl,
    .of_empty .readTime (fun _ => rfl) rfl rfl, .of_empty .timeStatus (fun _ => rfl) rfl rfl, rowOk_setTime,
    rowOk_step, rowOk_slew, rowOk_setTrim, rowOk_setSources, .of_empty .sourceStatus (fun _ => rfl) rfl rfl,
    rowOk_claim, .of_empty .release (fun _ => rfl) rfl rfl, .of_empty .withdraw (fun _ => rfl) rfl rfl,
    .of_empty .authStatus (fun _ => rfl) rfl rfl, noRow _⟩,
    .of_empty .alloc (fun _ => rfl) rfl rfl,
    .of_byte .free (fun _ => rfl) (fun _ => rfl) (fun _ => rfl) (fun _ => rfl), rowOk_arm,
    .of_byte .cancel (fun _ => rfl) (fun _ => rfl) (fun _ => rfl) (fun _ => rfl),
    .of_byte .timerStatus (fun _ => rfl) (fun _ => rfl) (fun _ => rfl) (fun _ => rfl),
    .of_empty .take (fun _ => rfl) rfl rfl, .of_empty .ack (fun _ => rfl) rfl rfl,
    .of_empty .peek (fun _ => rfl) rfl rfl,
    .of_byte .setThreshold (fun _ => rfl) (fun _ => rfl) (fun _ => rfl) (fun _ => rfl), rowOk_bindPin,
    .of_byte .unbindPin (fun _ => rfl) (fun _ => rfl) (fun _ => rfl) (fun _ => rfl),
    .of_two_bytes .drivePin (fun _ => rfl) (fun _ _ => rfl) (fun _ _ => rfl) (fun _ _ => rfl),
    .of_byte .pinStatus (fun _ => rfl) (fun _ => rfl) (fun _ => rfl) (fun _ => rfl),
    .of_two_bytes .setEdges (fun _ => rfl) (fun _ _ => rfl) (fun _ _ => rfl) (fun _ _ => rfl),
    .of_two_bytes .subscribe (fun _ => rfl) (fun _ _ => rfl) (fun _ _ => rfl) (fun _ _ => rfl),
    .of_byte .unsubscribe (fun _ => rfl) (fun _ => rfl) (fun _ => rfl) (fun _ => rfl),
    .of_byte .readCapture (fun _ => rfl) (fun _ => rfl) (fun _ => rfl) (fun _ => rfl), noRow _⟩

/-- The opcodes that name a command are those of the table. -/
theorem knownOpcode_iff {op : Byte} : knownOpcode op = true ↔ ∃ lengths, (op, lengths) ∈ acceptedLengths := by
  have table : opcodes = acceptedLengths.map Prod.fst := rfl
  simp [knownOpcode, table]

end Sys2Proof.Machine

namespace Sys2Proof.Proofs

open Sys2Proof.Machine

/-- Settles O12: the fields of a payload are read back one by one, and any bytes of a field's width are a value of it. -/
theorem frameCarriesRequest : Obligations.FrameCarriesRequest := by
  unfold Obligations.FrameCarriesRequest
  refine ⟨fun q r extra hw => ⟨length_encodeFrame q r, frameOf q r, parseFrame_encodeFrame hw q extra, rfl, rfl, rfl,
    frameOf_passes q r, knownOpcode_opcodeOf r, decodeRequest_payloadOf hw⟩, fun op lengths p hop hp => ?_⟩
  obtain ⟨r, hw, rfl, rfl⟩ := (rowOk_of_accepted _ hop).carried p hp
  exact ⟨r, decodeRequest_payloadOf hw, hw, rfl, rfl⟩

end Sys2Proof.Proofs
end

section
/-! What a received frame asks for: a command's frame is the command's row, and a frame that names no command is answered
so (R154, R156). -/

namespace Sys2Proof.Machine

/-! ### The sampled levels (R35, R135) -/

/-- Only SET_SOURCES takes an advance, and so only it samples the levels. -/
theorem carryOut_levels {r : Request} (hr : ∀ l, r ≠ .setSources l) (h : HostId) (levels other : Quad Level)
    (s : State) : carryOut h other r s = carryOut h levels r s := by
  cases r with
  | setSources l => exact absurd rfl (hr l)
  | _ => rfl

theorem validate_levels {r : Request} {levels other : Quad Level} (hl : other = levels ∨ ∀ l, r ≠ .setSources l)
    (h : HostId) : validate h other r = validate h levels r := by
  rcases hl with rfl | hr
  · rfl
  · funext s
    rw [validate, carryOut_levels hr h levels other, validate]

/-! ### Validation of a frame (R156 steps 1 and 2) -/

theorem validateFrame_frameOf {r : Request} (hw : r.wellFormed = true) (q : Byte) (h : HostId)
    (levels : Quad Level) : validateFrame h levels (frameOf q r) = validate h levels r := by
  funext s
  have decoded : decodeRequest (frameOf q r).op (frameOf q r).payload = some r := decodeRequest_payloadOf hw
  have known : knownOpcode (frameOf q r).op = true := knownOpcode_opcodeOf r
  simp only [validateFrame, known, decoded, Bool.not_true, Bool.false_eq_true, if_false]

theorem validateFrame_of_unknown {f : Frame} (hk : knownOpcode f.op = false) (h : HostId) (levels : Quad Level)
    (s : State) : validateFrame h levels f s = (s, some (.bare .badOp)) := by
  simp only [validateFrame, hk, Bool.not_false, if_true]

theorem validateFrame_of_length {f : Frame} (hk : knownOpcode f.op = true) (hd : decodeRequest f.op f.payload = none)
    (h : HostId) (levels : Quad Level) (s : State) : validateFrame h levels f s = (s, some (.bare .badLength)) := by
  simp only [validateFrame, hk, hd, Bool.not_true, Bool.false_eq_true, if_false]

/-! ### Frames and rows -/

/-- The frame of a command, taken at the release of the select as its row takes the command (log 3). -/
theorem releaseSend_encodeFrame {r : Request} (hw : r.wellFormed = true) (q : Byte) (h : HostId)
    (levels : Quad Level) (s : State) :
    releaseSend h (encodeFrame q r) levels s = takeChecked h (opcodeOf r) q (validate h levels r) s := by
  have parsed : parseFrame (encodeFrame q r) = some (frameOf q r) := by
    simpa using parseFrame_encodeFrame hw q []
  rw [releaseSend_of_passes parsed (frameOf_passes q r), validateFrame_frameOf hw]
  rfl

theorem Ready.portOpen {h : HostId} {op q : Byte} {s : State} (hr : Ready h op q s) : portOpen s h = true := by
  obtain ⟨hrun, hline, -, -⟩ := hr
  simp [Machine.portOpen, hrun, hline]

/-- A new request that is refused as its frame is validated is answered so, and nothing outside its port changes. -/
theorem frame_refused {h : HostId} {bs : List Byte} {levels : Quad Level} {f : Frame} {x : Result} {s : State}
    (hf : parseFrame bs = some f) (hc : f.passes = true) (hr : Ready h f.op f.seq s)
    (hv : ∀ u, validateFrame h levels f u = (u, some (.bare x))) :
    ∃ t, exec (.send h bs levels) s = .next t ∧ Answers h f.op f.seq x [] t ∧ RequestFrame h [] s t := by
  have ho := hr.portOpen
  obtain ⟨-, -, hw, hnew⟩ := hr
  have shownNew : retryOf ((showStatus h (fill bs.length) s).port h) f.op f.seq = none := by
    rw [showStatus_port]
    exact hnew
  rw [exec_send_of_open ho, releaseSend_of_passes hf hc,
    takeChecked_of_refused (NotWorking.showStatus hw _) shownNew hv, showStatus_setPort, showStatus_port]
  obtain ⟨t, e, hother, hport, ht⟩ := setPort_spec (h := h) (s := s) (x := { s.port h with
    phase := .answered ⟨f.op, f.seq, x, []⟩, record := some ⟨f.op, f.seq, ⟨f.op, f.seq, x, []⟩⟩
    refused := false, runt := false, shifted := statusByte s h :: fill bs.length }) rfl rfl
  refine ⟨t, e, ?_, hother, hport⟩
  rw [Answers, ht]
  exact ⟨rfl, rfl, rfl, rfl⟩

end Sys2Proof.Machine

namespace Sys2Proof.Proofs

open Sys2Proof.Machine

/-- Settles O13: an open port shows the same bytes for both and takes the same request; a closed one ignores both. -/
theorem sendOfFrameIsCommandRow : Obligations.SendOfFrameIsCommandRow := by
  unfold Obligations.SendOfFrameIsCommandRow
  intro i h q r levels other s hi hwf hl
  obtain ⟨hexec, hwell⟩ := hostCommand_row hi
  have hw : r.wellFormed = true := hwell ▸ hwf
  refine ⟨_, hexec s, ?_⟩
  by_cases ho : portOpen s h = true
  · rw [exec_send_of_open ho, releaseSend_encodeFrame hw, validate_levels hl, length_encodeFrame, requestRow, if_pos ho]
  · rw [requestRow_ignored (eq_false_of_ne_true ho)]
    exact congrArg Host.Outcome.next (transaction_ignored (eq_false_of_ne_true ho) 0xA5 (encodeFrame q r) other)

/-- Settles O16: the table of R180 decides both refusals, before any part outside the port is looked at. -/
theorem unknownRequestsAnswered : Obligations.UnknownRequestsAnswered := by
  unfold Obligations.UnknownRequestsAnswered
  intro h bs levels f s hf hc hr
  refine ⟨fun hop => frame_refused hf hc hr (validateFrame_of_unknown ?_ h levels),
    fun lengths hop hp => frame_refused hf hc hr (validateFrame_of_length (knownOpcode_iff.2 ⟨lengths, hop⟩) ?_ h levels)⟩
  · rw [← Bool.not_eq_true, knownOpcode_iff]
    exact not_exists.2 hop
  · exact (rowOk_of_accepted _ hop).refused _ hp

end Sys2Proof.Proofs
end

section
/-! The beginning of a session and its reports (R159, R161 to R163), and the reset line of a host (R164 to R166). -/

namespace Sys2Proof.Machine

/-! ### ATTACH (R159) -/

theorem carryOut_attach (h : HostId) (q : Byte) (levels : Quad Level) (s : State) :
    carryOut h levels .attach (requestTaken h q .attach s) =
      (s.setPort h { (requestTaken h q .attach s).port h with attached := true },
        some ⟨.ok, [if s.attached h then 1 else 0]⟩) := by
  rw [carryOut, atOnce, attachAt, requestTaken_attached, requestTaken, State.setPort_setPort]
  rfl

/-! ### HRST_ASSERT (R164) -/

/-- The port while its HRST line is asserted: IDLE, with no record, no flags and no session. -/
def resetPort : Port := ⟨.idle, none, false, false, false, true, []⟩

/-- A teardown says nothing of the torn-down host's own port but that its session has ended. -/
theorem TornDown.setPort {h : HostId} {s t : State} (ht : TornDown h s t) {x : Port} (hx : x.attached = false) :
    TornDown h s (t.setPort h x) := by
  obtain ⟨-, hport, hrest⟩ := ht
  refine ⟨?_, fun g hg => ?_, hrest⟩
  · rw [State.setPort_attached, if_pos rfl, hx]
  · rw [State.setPort_port, if_neg hg, hport g hg]

section HrstAssert

variable {h : HostId} {s : State}

theorem exec_hrstAssert_repeated (hl : (s.port h).hrst = true) : exec (.hrstAssert h) s = .next s :=
  congrArg Host.Outcome.next (if_pos hl)

theorem exec_hrstAssert_attached (hl : (s.port h).hrst = false) (hr : s.running = true) (ha : s.attached h = true) :
    exec (.hrstAssert h) s = .next ((teardown h s).setPort h resetPort) := by
  show Host.Outcome.next _ = _
  simp only [hl, hr, ha, Bool.false_eq_true, if_true, if_false, teardown_port]
  rfl

theorem exec_hrstAssert_detached (hl : (s.port h).hrst = false) (hr : s.running = true) (ha : s.attached h = false) :
    exec (.hrstAssert h) s = .next (s.setPort h resetPort) := by
  have session : (s.port h).attached = false := ha
  show Host.Outcome.next _ = _
  simp only [hl, hr, ha, Bool.false_eq_true, if_true, if_false, session]
  rfl

theorem exec_hrstAssert_stopped (hl : (s.port h).hrst = false) (hr : s.running = false) :
    exec (.hrstAssert h) s = .next (s.setPort h { s.port h with hrst := true, shifted := [] }) := by
  show Host.Outcome.next _ = _
  simp only [hl, hr, Bool.false_eq_true, if_false]

end HrstAssert

end Sys2Proof.Machine

namespace Sys2Proof.Proofs

open Sys2Proof.Machine

/-- Settles O18: ATTACH writes the session of its own port; the three reports leave the block as it stands. -/
theorem sessionCommands : Obligations.SessionCommands := by
  unfold Obligations.SessionCommands
  intro h q s
  refine ⟨fun hr => ?_, fun hr => ?_, fun ⟨hr, ha⟩ data hdata => ?_, fun ⟨hr, ha⟩ => ?_⟩
  · have row := requestRow_answered (levels := noLevels) hr rfl (.inr rfl) (fun c => by cases c)
      (carryOut_attach h q noLevels s)
    obtain ⟨hother, hports, hport⟩ :=
      setPort_others h { (requestTaken h q .attach s).port h with attached := true } s
    obtain ⟨hrefused, hrunt⟩ := requestTaken_flags h q .attach s
    refine ⟨_, congrArg Host.Outcome.next row, ?_, answers_holdAnswer (by rw [hport]; exact hrefused)
      (by rw [hport]; exact hrunt), hother.trans (setPort_frame _ _ _), fun g hg => ?_, ?_⟩
    · rw [holdAnswer_attached, State.attached, hport]
    · rw [holdAnswer_port, if_neg hg, hports g hg]
    · rw [holdAnswer_port, if_pos rfl, hport, requestTaken_port, if_pos rfl]
  · refine request_unchanged hr rfl (.inr rfl) (fun c => by cases c) ?_
    rw [carryOut, atOnce, statusAt, requestTaken_attached]
    rfl
  · exact request_unchanged hr (decide_eq_true hdata) (.inl ha) (fun c => by cases c) rfl
  · refine request_unchanged hr rfl (.inl ha) (fun c => by cases c) ?_
    simp only [carryOut, atOnce, sessionsAt, requestTaken_attached]
    rfl

/-- Settles O57: the cases of R164 by the level of the line, the main domain and the session. -/
theorem hostResetLine : Obligations.HostResetLine := by
  unfold Obligations.HostResetLine
  intro h s
  refine ⟨exec_hrstAssert_repeated, fun hl hr ha => ?_, fun hl hr ha => ?_, fun hl hr => ?_, ?_⟩
  · exact ⟨_, exec_hrstAssert_attached hl hr ha, (teardown_tornDown h s).setPort rfl, State.setPort_port_self _ h _⟩
  · exact ⟨_, exec_hrstAssert_detached hl hr ha, setPort_others h _ s⟩
  · exact ⟨_, exec_hrstAssert_stopped hl hr, setPort_others h _ s⟩
  · exact ⟨_, rfl, setPort_others h _ s⟩

end Sys2Proof.Proofs
end

section
/-! The step and the queue of commands: one equation for each form of the queue (log 5). -/

namespace Sys2Proof.Machine

theorem step_of_pending_nil {s : State} (hq : s.pending = []) : Sys2Proof.Machine.step s = .next s := by
  rw [Sys2Proof.Machine.step, hq]

theorem step_of_pending_cons {s : State} {c : Instr} {rest : List Instr} (hq : s.pending = c :: rest) :
    Sys2Proof.Machine.step s = exec c { s with pending := rest } := by
  rw [Sys2Proof.Machine.step, hq]

end Sys2Proof.Machine

namespace Sys2Proof.Proofs

open Sys2Proof.Machine

/-- Settles O1, by the two forms of the queue. -/
theorem stepTakesFrontCommand : Obligations.StepTakesFrontCommand := by
  unfold Obligations.StepTakesFrontCommand
  exact ⟨fun _ _ _ hq => step_of_pending_cons hq, fun _ hq => step_of_pending_nil hq⟩

end Sys2Proof.Proofs
end

section
/-! Every command through the operation it comes down to: transactions and requests at the ports, the events of the main
domain, and the steps of the supplies (R149 to R177). -/

namespace Sys2Proof.Machine

/-- RESETn driven low (R173). -/
def withResetLow (s : State) : State := { s with power := { s.power with resetLow := true } }

/-- The main domain unsupplied: its state lost, and a main-power absence begun (R176). -/
def supplyLost (s : State) : State :=
  { mainDomainCleared s with power := { s.power with supply := .absent, absence := true } }

/-- What an event of the supplies, of RESETn, of the power-up delay or of the retained domain does to the block (R169,
R170, R173, R176, R177). -/
inductive SupplyStep (s : State) : State → Prop
  | stands : SupplyStep s s
  | risen (h : s.power.supply = .absent) : SupplyStep s (withSupply .low s)
  | fallen (h : s.power.supply ≠ .absent) : SupplyStep s (withSupply .low s)
  | resetLow : SupplyStep s (withResetLow s)
  | delayed (e after : Nat) (h : s.power.supply = .powerUp e) : SupplyStep s (withSupply (.powerUp after) s)
  | delayOver (e : Nat) (h : s.power.supply = .powerUp e) : SupplyStep s (resetIfEnded (withSupply .operating s))
  | resetHigh : SupplyStep s (resetIfEnded (withResetHigh s))
  | lost : SupplyStep s (supplyLost s)
  | ticked : SupplyStep s { s with retained := s.retained.map Retained.tick }
  | retainedLost (h : s.power.supply = .absent ∨ s.power.supply = .low) : SupplyStep s { s with retained := none }
  | rising : SupplyStep s (retainedRise (withSupply (.powerUp 0) s))
  | coldStart : SupplyStep s (retainedRise s)

/-- Every operation that a command comes down to keeps `P`. -/
structure CommandsKeep (P : State → Prop) : Prop where
  pending : ∀ s l, P s → P { s with pending := l }
  showNothing : ∀ h s, P s → P (showNothing h s)
  transaction : ∀ h first more levels s, P s → P (transaction h first more levels s)
  requestRow : ∀ h q r levels s, P s → P (requestRow h q r levels s)
  hrstAssert : ∀ h s t, P s → exec (.hrstAssert h) s = .next t → P t
  hrstRelease : ∀ h s, P s → P (s.setPort h { s.port h with hrst := false })
  advance : ∀ levels s, P s → P (advance levels s)
  expireHead : ∀ s, P s → P (expireHead s)
  endPulse : ∀ p s, P s → P (endPulse p s)
  takeCapture : ∀ s, P s → P (takeCapture s)
  expireLease : ∀ s, P s → P (expireLease s)
  superviseCycle : ∀ s, P s → P (superviseCycle s)
  sourceEdge : ∀ w s, P s → P (s.setWatched w (s.watched w).edge)
  loseSource : ∀ w levels s, P s → P (loseSource w levels s)
  qualify : ∀ w s, P s → P (qualify w s)
  endHoldOff : ∀ w s, P s → P (endHoldOff w s)
  timeOutWait : ∀ s, P s → P (timeOutWait s)
  supply : ∀ s t, P s → SupplyStep s t → P t

/-- The events of the supplies and of the retained domain. -/
def supplyEvent : Instr → Bool
  | .mainResetConditionBegin _ | .resetnRelease | .powerUpDelayEnd | .vmainLoss | .lpCycle | .retainedStateLoss
  | .coldStart | .vmainRise => true
  | _ => false

theorem SupplyStep.of_exec {i : Instr} {s t : State} (hi : supplyEvent i = true) (e : exec i s = .next t) :
    SupplyStep s t := by
  cases i with
  | mainResetConditionBegin cause =>
    obtain rfl := Host.Outcome.next.inj e
    split
    · next h => exact .risen h
    · next h => exact .fallen (by simp [h])
    · next h => exact .fallen (by simp [h])
    · exact .resetLow
    · exact .stands
  | resetnRelease =>
    obtain rfl := Host.Outcome.next.inj e
    split
    · exact .resetHigh
    · exact .stands
  | powerUpDelayEnd =>
    obtain rfl := Host.Outcome.next.inj e
    split
    · next d h =>
      split
      · exact .delayOver d h
      · exact .stands
    · exact .stands
  | vmainLoss =>
    obtain rfl := Host.Outcome.next.inj e
    split
    · exact .stands
    · exact .lost
  | lpCycle => exact Host.Outcome.next.inj e ▸ .ticked
  | retainedStateLoss =>
    obtain rfl := Host.Outcome.next.inj e
    split
    · next h => exact .retainedLost (.inl h)
    · next h => exact .retainedLost (.inr h)
    · exact .stands
  | coldStart => exact Host.Outcome.next.inj e ▸ .coldStart
  | vmainRise =>
    obtain rfl := Host.Outcome.next.inj e
    split
    · exact .rising
    · next d h => exact .delayed d 0 h
    · exact .stands
  | _ => cases hi

section Commands

variable {P : State → Prop} (k : CommandsKeep P) {s : State}

include k

theorem CommandsKeep.exec {i : Instr} {t : State} (hs : P s) (e : exec i s = .next t) : P t := by
  cases i with
  | poll h first more =>
    obtain rfl := Host.Outcome.next.inj e
    split
    · exact k.transaction _ _ _ _ _ hs
    · exact k.showNothing _ _ hs
  | send h frame levels => exact Host.Outcome.next.inj e ▸ k.transaction _ _ _ _ _ hs
  | fetch h more => exact Host.Outcome.next.inj e ▸ k.transaction _ _ _ _ _ hs
  | advance levels => exact Host.Outcome.next.inj e ▸ whileRunning_keeps (k.advance _ _) hs
  | expiry => exact Host.Outcome.next.inj e ▸ whileRunning_keeps (k.expireHead _) hs
  | pulseEnd p => exact Host.Outcome.next.inj e ▸ whileRunning_keeps (k.endPulse _ _) hs
  | capture => exact Host.Outcome.next.inj e ▸ whileRunning_keeps (k.takeCapture _) hs
  | leaseExpiry => exact Host.Outcome.next.inj e ▸ whileRunning_keeps (k.expireLease _) hs
  | rcCycle =>
    obtain rfl := Host.Outcome.next.inj e
    split
    · next d h => exact k.supply _ _ hs (.delayed d _ h)
    · exact whileRunning_keeps (k.superviseCycle _) hs
  | sourceEdge w => exact Host.Outcome.next.inj e ▸ whileRunning_keeps (k.sourceEdge _ _) hs
  | sourceLoss w levels => exact Host.Outcome.next.inj e ▸ whileRunning_keeps (k.loseSource _ _ _) hs
  | qualification w => exact Host.Outcome.next.inj e ▸ whileRunning_keeps (k.qualify _ _) hs
  | holdOffEnd w => exact Host.Outcome.next.inj e ▸ whileRunning_keeps (k.endHoldOff _ _) hs
  | waitTimeout => exact Host.Outcome.next.inj e ▸ whileRunning_keeps (k.timeOutWait _) hs
  | hrstAssert h => exact k.hrstAssert _ _ _ hs e
  | hrstRelease h => exact Host.Outcome.next.inj e ▸ k.hrstRelease _ _ hs
  | mainResetConditionBegin | resetnRelease | powerUpDelayEnd | vmainLoss | lpCycle | retainedStateLoss | coldStart
  | vmainRise => exact k.supply _ _ hs (.of_exec rfl e)
  | _ => exact Host.Outcome.next.inj e ▸ k.requestRow _ _ _ _ _ hs

/-- What every operation keeps, every step keeps. -/
theorem CommandsKeep.step {t : State} (hs : P s) (h : Sys2Proof.Machine.step s = .next t) : P t :=
  step_keeps k.pending (fun _ _ _ => k.exec) hs h

end Commands

end Sys2Proof.Machine
end

section
/-! The supervisor: the states of the watched sources, the end of a wait, an advance beside it, a failover and the store
of a list in their parts (R23, R26, R28, R30, R33 to R36). -/

namespace Sys2Proof.Machine

/-! ### The watched sources (R21, R23) -/

section SetWatched

variable (w : Watched) (x : SourceState) (s : State)

theorem State.setWatched_watched (v : Watched) :
    (s.setWatched w x).watched v = if v = w then x else s.watched v := by
  cases w <;> cases v <;> rfl

@[simp] theorem State.setWatched_watched_self : (s.setWatched w x).watched w = x := by
  simp [State.setWatched_watched]

/-- A watched source written changes that source alone. -/
theorem State.setWatched_sup : (s.setWatched w x).sup =
    { s.sup with xo := (s.setWatched w x).sup.xo, ext := (s.setWatched w x).sup.ext } := by
  cases w <;> rfl

@[simp] theorem State.setWatched_list : (s.setWatched w x).sup.list = s.sup.list := by cases w <;> rfl
@[simp] theorem State.setWatched_trims : (s.setWatched w x).sup.trims = s.sup.trims := by cases w <;> rfl
@[simp] theorem State.setWatched_selected : (s.setWatched w x).sup.selected = s.sup.selected := by cases w <;> rfl
@[simp] theorem State.setWatched_leaving : (s.setWatched w x).sup.leaving = s.sup.leaving := by cases w <;> rfl
@[simp] theorem State.setWatched_wait : (s.setWatched w x).sup.wait = s.sup.wait := by cases w <;> rfl

theorem State.setWatched_sourceState (y : Source) :
    (s.setWatched w x).sourceState y = if y = w.source then x else s.sourceState y := by
  cases w <;> cases y <;> rfl

@[simp] theorem State.sourceState_source : s.sourceState w.source = s.watched w := by cases w <;> rfl

end SetWatched

theorem State.sourceState_congr {s t : State} (hxo : t.sup.xo = s.sup.xo) (hext : t.sup.ext = s.sup.ext)
    (x : Source) : t.sourceState x = s.sourceState x := by
  cases x with
  | xo => exact hxo
  | ext => exact hext
  | rc => rfl

theorem Source.eq_rc_or_watched (x : Source) : x = .rc ∨ ∃ w : Watched, x = w.source := by
  cases x with
  | xo => exact .inr ⟨.xo, rfl⟩
  | ext => exact .inr ⟨.ext, rfl⟩
  | rc => exact .inl rfl

theorem SourceState.isQualified_of_holdOffElapsed {x : SourceState} (h : x.holdOffElapsed = true) :
    x.isQualified = true := by
  cases x with
  | qualified => rfl
  | _ => cases h

theorem SourceState.run_off (amount : Nat) (x : SourceState) : x.run amount = .off ↔ x = .off := by
  cases x with
  | qualified d m => cases d <;> simp [SourceState.run]
  | _ => simp [SourceState.run]

theorem SourceState.run_isQualified (amount : Nat) (x : SourceState) :
    (x.run amount).isQualified = x.isQualified := by
  cases x with
  | qualified d m => cases d <;> rfl
  | _ => rfl

theorem SourceState.edge_off (x : SourceState) : x.edge = .off ↔ x = .off := by
  cases x <;> simp [SourceState.edge]

theorem SourceState.edge_isQualified (x : SourceState) : x.edge.isQualified = x.isQualified := by
  cases x <;> rfl

theorem SourceState.ne_off_of_lossDue {x : SourceState} (h : x.lossDue = true) : x ≠ .off := by
  rintro rfl; cases h

/-- The first QUALIFIED source may be selected, RC when there is no other (R23, R28). -/
theorem firstQualified_isQualified (s : State) : (s.sourceState (firstQualified s)).isQualified = true := by
  unfold firstQualified
  cases h : (effectiveList s.sup.list).find? fun x => (s.sourceState x).isQualified with
  | none => rfl
  | some x => exact List.find?_some (p := fun x => (s.sourceState x).isQualified) h

/-- The effective list names the sources of the stored list, and RC (R26). -/
theorem mem_effectiveList {l : List Source} {x : Source} : x ∈ effectiveList l ↔ x ∈ l ∨ x = .rc := by
  unfold effectiveList
  split
  · next h => exact ⟨.inl, fun c => c.elim id fun e => e ▸ h⟩
  · simp

/-! ### A wait that ends with its answer (R35, R36, R157) -/

/-- The answer stands at the port of the wait alone. -/
theorem endWait_ports {s : State} {w : Wait} {op q : Byte} (r : Reply) (hw : s.sup.wait = some w)
    (hp : (s.port w.host).phase = .working op q) :
    (∀ g, g ≠ w.host → (endWait (some r) s).port g = s.port g) ∧
      (endWait (some r) s).port w.host = { s.port w.host with
        phase := .answered ⟨op, q, r.result, r.payload⟩
        record := some ⟨op, q, ⟨op, q, r.result, r.payload⟩⟩ } := by
  rw [endWait_answered s hw hp]
  refine ⟨fun g hg => ?_, ?_⟩
  · rw [holdAnswer, State.setPort_port, if_neg hg]
    rfl
  · rw [holdAnswer, State.setPort_port_self]
    rfl

/-- A hand-over that finds a wait of the old holder ends it with REVOKED (R36). -/
theorem handOver_of_wait {old : HostId} {w : Wait} {s : State} (hw : s.sup.wait = some w) (e : w.host = old) :
    handOver old false s = endWait (some (selectedReply .revoked (grantNext s))) (grantNext s) := by
  obtain ⟨-, hsup, -⟩ := grantNext_frame s
  have runs : ((grantNext s).sup.wait.any fun w => w.host = old) = true := by
    rw [hsup (by simp), hw]
    simpa using e
  exact if_pos runs

/-! ### The trims (R32) -/

theorem PerSource.get_set {α : Type} (v : PerSource α) (x : Source) (a : α) (y : Source) :
    (v.set x a).get y = if y = x then a else v.get y := by
  cases x <;> cases y <;> rfl

theorem trimOf_inRange {b : BitVec 32} {v : Int} (h : trimOf b = some v) : -50000000 ≤ v ∧ v ≤ 50000000 := by
  unfold trimOf at h
  split at h
  · next hb =>
    cases h
    exact hb
  · cases h

/-! ### An advance and a failover (R28) -/

/-- An advance leaves every source its state. -/
@[simp] theorem takeAdvance_sourceState (m : Nat) (levels : Quad Level) (s : State) (x : Source) :
    (takeAdvance m levels s).sourceState x = s.sourceState x :=
  State.sourceState_congr (by rw [takeAdvance_sup]) (by rw [takeAdvance_sup]) x

/-- What an advance selects from is what stood before it (R28). -/
@[simp] theorem takeAdvance_firstQualified (m : Nat) (levels : Quad Level) (s : State) :
    firstQualified (takeAdvance m levels s) = firstQualified s := by
  simp only [firstQualified, takeAdvance_sup, takeAdvance_sourceState]

/-- The selection of a failover, made after its bridge. -/
def failedOver (s : State) : State :=
  { s with sup := { s.sup with selected := firstQualified s, leaving := none, startUp := false } }

/-- That selection with its SOURCE LOSS notice. -/
def lossPosted (s : State) : State :=
  postAll (sourceNotice (failedOver s) .loss (failedOver s).count.time) (failedOver s)

theorem failover_eq (m : Nat) (levels : Quad Level) (s : State) :
    failover m levels s = lossPosted (takeAdvance m levels s) := by
  unfold failover
  generalize takeAdvance m levels s = u
  rfl

/-! ### SET_SOURCES in its parts (R33 to R35) -/

/-- `s` with the list `l` stored, the bridge of the store taken, and the selection of the store made. -/
def listStored (l : List Source) (levels : Quad Level) (s : State) : State :=
  match storeSelection (storeList l s) with
  | some x => selectAtStore s x (storeBridge s levels (storeList l s))
  | none => storeBridge s levels (storeList l s)

theorem listStored_of_none {l : List Source} {levels : Quad Level} {s : State}
    (h : storeSelection (storeList l s) = none) :
    listStored l levels s = storeBridge s levels (storeList l s) := by rw [listStored, h]

theorem listStored_of_some {l : List Source} {levels : Quad Level} {s : State} {x : Source}
    (h : storeSelection (storeList l s) = some x) :
    listStored l levels s = selectAtStore s x (storeBridge s levels (storeList l s)) := by rw [listStored, h]

/-- `s` with a wait of `h` started (R35). -/
def waitStarted (h : HostId) (s : State) : State := { s with sup := { s.sup with wait := some ⟨h, 0⟩ } }

section SetSources

variable {h : HostId} {v : ListArg} {levels : Quad Level} {s : State}

theorem setSourcesAt_of_none (hl : listOf v = none) : setSourcesAt h v levels s = (s, some (.bare .range)) := by
  rw [setSourcesAt, hl]

/-- The store whose head is then the selected source answers OK. -/
theorem setSourcesAt_of_selected {l : List Source} (hl : listOf v = some l)
    (hs : l.head? = some (listStored l levels s).sup.selected) :
    setSourcesAt h v levels s = (listStored l levels s, some (selectedReply .ok (listStored l levels s))) := by
  rw [setSourcesAt, hl]
  exact if_pos hs

/-- Any other store starts a wait. -/
theorem setSourcesAt_of_wait {l : List Source} (hl : listOf v = some l)
    (hs : l.head? ≠ some (listStored l levels s).sup.selected) :
    setSourcesAt h v levels s = (waitStarted h (listStored l levels s), none) := by
  rw [setSourcesAt, hl]
  exact if_neg hs

/-- What SET_SOURCES can do: refuse its list, or store it and answer OK, or store it and wait. -/
theorem setSourcesAt_cases (h : HostId) (v : ListArg) (levels : Quad Level) (s : State) :
    setSourcesAt h v levels s = (s, some (.bare .range)) ∨ ∃ l, listOf v = some l ∧
      (setSourcesAt h v levels s = (listStored l levels s, some (selectedReply .ok (listStored l levels s))) ∨
        setSourcesAt h v levels s = (waitStarted h (listStored l levels s), none)) := by
  cases hl : listOf v with
  | none => exact .inl (setSourcesAt_of_none hl)
  | some l =>
    refine .inr ⟨l, rfl, ?_⟩
    by_cases hs : l.head? = some (listStored l levels s).sup.selected
    · exact .inl (setSourcesAt_of_selected hl hs)
    · exact .inr (setSourcesAt_of_wait hl hs)

end SetSources

theorem sourceOf_eq_some {b : Byte} {x : Source} : sourceOf b = some x ↔ b = sourceCode x := by
  unfold sourceOf
  split
  · next e => subst e; cases x <;> simp [sourceCode]
  · next h1 =>
    split
    · next e => subst e; cases x <;> simp [sourceCode]
    · next h2 =>
      split
      · next e => subst e; cases x <;> simp [sourceCode]
      · next h3 => cases x <;> simp_all [sourceCode]

/-- Bytes that name sources, one by one (R179). -/
theorem mapM_sourceOf_eq_some {bs : List Byte} {l : List Source} :
    bs.mapM sourceOf = some l ↔ bs = l.map sourceCode := by
  induction bs generalizing l with
  | nil => cases l <;> simp
  | cons b bs ih =>
    rw [List.mapM_cons]
    cases l with
    | nil => simp [Option.bind_eq_some_iff]
    | cons x l => simp [Option.bind_eq_some_iff, sourceOf_eq_some, ih]

/-- The preference list of a request: not empty, and without repeats (R33). -/
theorem listOf_ok {v : ListArg} {l : List Source} (h : listOf v = some l) : l ≠ [] ∧ l.Nodup := by
  unfold listOf at h
  dsimp only at h
  split at h
  · next hcount =>
    split at h
    · next sources hsources =>
      split at h
      · next hnodup =>
        cases h
        refine ⟨?_, hnodup⟩
        rintro rfl
        have hlen := congrArg List.length (mapM_sourceOf_eq_some.1 hsources)
        simp at hlen
        omega
      · cases h
    · cases h
  · cases h

/-- What a store selects is QUALIFIED (R34). -/
theorem storeSelection_isQualified {s : State} {x : Source} (h : storeSelection s = some x) :
    (s.sourceState x).isQualified = true := by
  unfold storeSelection at h
  dsimp only at h
  split at h
  · cases h
  · split at h
    · cases h
    · split at h
      · next hq => cases h; exact hq
      · split at h
        · cases h; exact firstQualified_isQualified s
        · have := List.find?_some h
          simp only [Bool.and_eq_true] at this
          exact SourceState.isQualified_of_holdOffElapsed this.2

/-- A store that selects nothing leaves a selected source that the effective list names (R34). -/
theorem storeSelection_none {s : State} (hl : s.sup.list ≠ []) (h : storeSelection s = none) :
    s.sup.selected ∈ effectiveList s.sup.list := by
  unfold storeSelection at h
  dsimp only at h
  split at h
  · next hn => exact absurd (List.head?_eq_none_iff.1 hn) hl
  · next head hh =>
    split at h
    · next e => exact mem_effectiveList.2 (.inl (e ▸ List.mem_of_mem_head? hh))
    · split at h
      · cases h
      · split at h
        · cases h
        · next hn => exact not_not.1 hn

end Sys2Proof.Machine
end

section
/-! The supervisor's invariant: the selection is consistent with the stored list, and the list and the trims with their
retained copies; every step keeps both (R23, R26, R27, R30, R32 to R34, R172, R176). -/

namespace Sys2Proof.Machine

/-! ### The conditions, part by part -/

/-- The list and the trims are in range, and a source is OFF exactly while the list does not name it (R23, R26, R32). -/
structure NamedOk (s : State) : Prop where
  settings : SettingsOk s.sup.list s.sup.trims
  off : ∀ w : Watched, s.watched w = .off ↔ w.source ∉ s.sup.list

/-- The selected source is QUALIFIED, and so is another one that is being left (R27, R30). -/
structure SelectionOk (s : State) : Prop extends NamedOk s where
  selected : (s.sourceState s.sup.selected).isQualified = true
  leaving : ∀ x, s.sup.leaving = some x → x ≠ s.sup.selected ∧ (s.sourceState x).isQualified = true

/-- The retained copies are in range, and there while VMAIN stands at 2.7 V or above; a main-power absence lasts while
VMAIN is absent (R172, R176, log 21). -/
structure DomainOk (s : State) : Prop where
  settings : ∀ r, s.retained = some r → SettingsOk r.list r.trims
  present : s.power.supply = .operating ∨ (∃ e, s.power.supply = .powerUp e) → s.retained.isSome = true
  absence : s.power.supply = .absent → s.power.absence = true

/-- The retained copies equal the list and the trims in use, and no main-power absence lasts (R172, R176). -/
structure CopiesOk (s : State) : Prop where
  equal : ∀ r, s.retained = some r → r.list = s.sup.list ∧ r.trims = s.sup.trims
  present : s.power.absence = false

/-- What is left of the invariant, the selection aside. -/
structure SettingsInv (s : State) : Prop extends DomainOk s where
  copies : s.running = true → CopiesOk s

theorem supervisorInv_iff (s : State) : SupervisorInv s ↔ SelectionOk s ∧ SettingsInv s := by
  unfold SupervisorInv
  constructor
  · rintro ⟨hset, hxo, hext, hsel, hleave, hret, hpres, hcopy, habs, hover⟩
    exact ⟨⟨⟨hset, fun w => by cases w <;> assumption⟩, hsel, hleave⟩, ⟨hret, hpres, habs⟩,
      fun hr => ⟨hcopy hr, hover hr⟩⟩
  · rintro ⟨hsel, hdom⟩
    exact ⟨hsel.settings, hsel.off .xo, hsel.off .ext, hsel.selected, hsel.leaving, hdom.settings, hdom.present,
      fun hr => (hdom.copies hr).equal, hdom.absence, fun hr => (hdom.copies hr).present⟩

theorem SupervisorInv.selection {s : State} (hs : SupervisorInv s) : SelectionOk s := ((supervisorInv_iff s).1 hs).1

theorem SupervisorInv.settingsInv {s : State} (hs : SupervisorInv s) : SettingsInv s := ((supervisorInv_iff s).1 hs).2

/-- While a main-reset condition holds, the copies need not equal what is in use. -/
theorem SupervisorInv.of_stopped {s : State} (hs : SelectionOk s) (hd : DomainOk s) (hr : s.running = false) :
    SupervisorInv s := (supervisorInv_iff s).2 ⟨hs, hd, fun c => by rw [hr] at c; cases c⟩

/-! ### Settings kept -/

/-- The list and the trims that the retained domain holds. -/
def Retained.settings (r : Retained) : List Source × PerSource Int := (r.list, r.trims)

/-- The power, the list and the trims stand, and so do the retained copies. -/
structure SettingsKept (s t : State) : Prop where
  power : t.power = s.power
  list : t.sup.list = s.sup.list
  trims : t.sup.trims = s.sup.trims
  retained : t.retained.map Retained.settings = s.retained.map Retained.settings

theorem SettingsKept.refl (s : State) : SettingsKept s s := ⟨rfl, rfl, rfl, rfl⟩

theorem SettingsKept.trans {s t u : State} (h : SettingsKept s t) (k : SettingsKept t u) : SettingsKept s u :=
  ⟨k.power.trans h.power, k.list.trans h.list, k.trims.trans h.trims, k.retained.trans h.retained⟩

/-- What works on the supervisor, but not on its list and trims. -/
theorem SettingsKept.of_frame {ps : List Part} {s t : State} (hf : OnlyChanges ps s t)
    (hps : [.retained, .power].Disjoint ps) (hl : t.sup.list = s.sup.list) (ht : t.sup.trims = s.sup.trims) :
    SettingsKept s t := by
  obtain ⟨-, -, -, -, -, -, -, -, hret, hpower, -⟩ := hf
  exact ⟨hpower (hps (by simp)), hl, ht, by rw [hret (hps (by simp))]⟩

theorem SettingsKept.of_other {ps : List Part} {s t : State} (hf : OnlyChanges ps s t)
    (hps : [.sup, .retained, .power].Disjoint ps) : SettingsKept s t := by
  have hsup : t.sup = s.sup := by
    obtain ⟨-, hsup, -⟩ := hf
    exact hsup (hps (by simp))
  exact .of_frame hf (fun _ hp => hps (List.mem_cons_of_mem _ hp)) (by rw [hsup]) (by rw [hsup])

/-- A retained count written leaves the copies (R19, R170). -/
theorem settings_map_of_count (r : Option Retained) (time residue : Nat) :
    (r.map fun x => { x with time := time, residue := residue }).map Retained.settings =
      r.map Retained.settings := by
  cases r <;> rfl

theorem SettingsKept.copy {s t : State} (h : SettingsKept s t) {r : Retained} (hr : t.retained = some r) :
    ∃ x, s.retained = some x ∧ r.list = x.list ∧ r.trims = x.trims := by
  have e := h.retained
  rw [hr, Option.map_some, eq_comm, Option.map_eq_some_iff] at e
  obtain ⟨x, hx, he⟩ := e
  obtain ⟨hlist, htrims⟩ := Prod.mk.inj he
  exact ⟨x, hx, hlist.symm, htrims.symm⟩

theorem SettingsKept.isSome {s t : State} (h : SettingsKept s t) : t.retained.isSome = s.retained.isSome := by
  simpa using congrArg Option.isSome h.retained

theorem SettingsKept.running {s t : State} (h : SettingsKept s t) : t.running = s.running := by
  rw [State.running, State.running, h.power]

theorem SettingsInv.of_kept {s t : State} (hs : SettingsInv s) (hk : SettingsKept s t) : SettingsInv t := by
  refine ⟨⟨fun r hr => ?_, ?_, ?_⟩, fun hr => ⟨fun r hx => ?_, ?_⟩⟩
  · obtain ⟨x, hx, hlist, htrims⟩ := hk.copy hr
    rw [hlist, htrims]
    exact hs.settings x hx
  · rw [hk.power, hk.isSome]
    exact hs.present
  · rw [hk.power]
    exact hs.absence
  · obtain ⟨x, hy, hlist, htrims⟩ := hk.copy hx
    rw [hlist, htrims, hk.list, hk.trims]
    exact (hs.copies (hk.running ▸ hr)).equal x hy
  · rw [hk.power]
    exact (hs.copies (hk.running ▸ hr)).present

/-- While the settings are kept, only the selection is left to judge. -/
theorem SupervisorInv.of_kept {s t : State} (hs : SupervisorInv s) (hk : SettingsKept s t) (ht : SelectionOk t) :
    SupervisorInv t := (supervisorInv_iff t).2 ⟨ht, hs.settingsInv.of_kept hk⟩

/-! ### The selection -/

theorem NamedOk.of_eq {s t : State} (hs : NamedOk s) (hlist : t.sup.list = s.sup.list)
    (htrims : t.sup.trims = s.sup.trims) (hxo : t.sup.xo = s.sup.xo) (hext : t.sup.ext = s.sup.ext) : NamedOk t := by
  have states : ∀ w, t.watched w = s.watched w := fun w => by cases w <;> assumption
  exact ⟨by rw [hlist, htrims]; exact hs.settings, fun w => by rw [states, hlist]; exact hs.off w⟩

/-- The list, the trims, the selected source and the one being left stand. -/
structure ChoiceKept (s t : State) : Prop where
  list : t.sup.list = s.sup.list
  trims : t.sup.trims = s.sup.trims
  selected : t.sup.selected = s.sup.selected
  leaving : t.sup.leaving = s.sup.leaving

/-- The watched sources change their states only among those that the selection does not tell apart. -/
theorem SelectionOk.of_states {s t : State} (hs : SelectionOk s) (h : ChoiceKept s t)
    (hoff : ∀ w, t.watched w = .off ↔ s.watched w = .off)
    (hq : ∀ w, (s.watched w).isQualified = true → (t.watched w).isQualified = true) : SelectionOk t := by
  have qualified : ∀ x, (s.sourceState x).isQualified = true → (t.sourceState x).isQualified = true := by
    intro x hx
    rcases Source.eq_rc_or_watched x with rfl | ⟨w, rfl⟩
    · rfl
    · rw [State.sourceState_source] at hx ⊢
      exact hq w hx
  refine ⟨⟨by rw [h.list, h.trims]; exact hs.settings, fun w => by rw [hoff, h.list]; exact hs.off w⟩,
    by rw [h.selected]; exact qualified _ hs.selected, fun x hx => ?_⟩
  rw [h.leaving] at hx
  rw [h.selected]
  obtain ⟨hne, hqx⟩ := hs.leaving x hx
  exact ⟨hne, qualified x hqx⟩

/-- The wait and the start-up phase are no part of the selection. -/
theorem SelectionOk.of_states_kept {s t : State} (hs : SelectionOk s) (h : ChoiceKept s t)
    (hxo : t.sup.xo = s.sup.xo) (hext : t.sup.ext = s.sup.ext) : SelectionOk t := by
  have states : ∀ w, t.watched w = s.watched w := fun w => by cases w <;> assumption
  exact hs.of_states h (fun w => by rw [states]) (fun w => by rw [states]; exact id)

theorem SelectionOk.of_sup {s t : State} (hs : SelectionOk s) (h : t.sup = s.sup) : SelectionOk t :=
  hs.of_states_kept (by constructor <;> rw [h]) (by rw [h]) (by rw [h])

/-- What leaves the supervisor, the retained domain and the power. -/
theorem SupervisorInv.of_other {ps : List Part} {s t : State} (hs : SupervisorInv s) (hf : OnlyChanges ps s t)
    (hps : [.sup, .retained, .power].Disjoint ps) : SupervisorInv t := by
  refine hs.of_kept (.of_other hf hps) (hs.selection.of_sup ?_)
  obtain ⟨-, hsup, -⟩ := hf
  exact hsup (hps (by simp))

theorem SelectionOk.setWatched {w : Watched} {x : SourceState} {s : State} (hs : SelectionOk s)
    (hoff : x = .off ↔ s.watched w = .off) (hq : (s.watched w).isQualified = true → x.isQualified = true) :
    SelectionOk (s.setWatched w x) := by
  refine hs.of_states (by constructor <;> simp) (fun v => ?_) (fun v => ?_)
  · rw [State.setWatched_watched]
    split
    · next e => rw [e]; exact hoff
    · exact Iff.rfl
  · rw [State.setWatched_watched]
    split
    · next e => rw [e]; exact hq
    · exact id

/-- The last advance of a source being left need not be awaited. -/
theorem NamedOk.selectionOk_of_none {s : State} (hs : NamedOk s)
    (hq : (s.sourceState s.sup.selected).isQualified = true) :
    SelectionOk { s with sup := { s.sup with leaving := none } } :=
  ⟨hs.of_eq rfl rfl rfl rfl, hq, fun _ c => by cases c⟩

/-- The source that drives the count is QUALIFIED (R30). -/
theorem SelectionOk.driver {s : State} (hs : SelectionOk s) : (s.sourceState (driver s)).isQualified = true := by
  unfold Machine.driver
  cases h : s.sup.leaving with
  | none => exact hs.selected
  | some x =>
    obtain ⟨-, hq⟩ := hs.leaving x h
    exact hq

/-- A selection of a QUALIFIED source leaves the one that drives the count. -/
theorem SelectionOk.switchTo {x : Source} {s : State} (hs : SelectionOk s)
    (hx : (s.sourceState x).isQualified = true) : SelectionOk (switchTo x s) := by
  have states : ∀ y, (Machine.switchTo x s).sourceState y = s.sourceState y := State.sourceState_congr rfl rfl
  refine ⟨hs.toNamedOk.of_eq rfl rfl rfl rfl, by rw [states]; exact hx, fun y hy => ?_⟩
  rw [switchTo_leaving] at hy
  rw [states, switchTo_selected]
  split at hy
  · cases hy
  · next hne =>
    cases hy
    exact ⟨hne, hs.driver⟩

/-! ### Operations of the supervisor -/

theorem switchTo_settingsKept (x : Source) (s : State) : SettingsKept s (switchTo x s) :=
  .of_frame (switchTo_frame x s) (by simp) rfl rfl

theorem setWatched_settingsKept (w : Watched) (x : SourceState) (s : State) : SettingsKept s (s.setWatched w x) :=
  .of_frame (setWatched_frame w x s) (by simp) (s.setWatched_list w x) (s.setWatched_trims w x)

theorem switchTo_supervisorInv {x : Source} {s : State} (hs : SupervisorInv s)
    (hx : (s.sourceState x).isQualified = true) : SupervisorInv (switchTo x s) :=
  hs.of_kept (switchTo_settingsKept x s) (hs.selection.switchTo hx)

theorem setWatched_supervisorInv {w : Watched} {x : SourceState} {s : State} (hs : SupervisorInv s)
    (hoff : x = .off ↔ s.watched w = .off) (hq : (s.watched w).isQualified = true → x.isQualified = true) :
    SupervisorInv (s.setWatched w x) :=
  hs.of_kept (setWatched_settingsKept w x s) (hs.selection.setWatched hoff hq)

theorem selectWithNotice_supervisorInv {x : Source} {cause : Cause} {stamp : Nat} {s : State} (hs : SupervisorInv s)
    (hx : (s.sourceState x).isQualified = true) : SupervisorInv (selectWithNotice x cause stamp s) := by
  unfold selectWithNotice
  split
  · exact hs
  · exact (switchTo_supervisorInv hs hx).of_other (postAll_frame _ _) (by simp)

theorem endWait_supervisorInv {r : Option Reply} {s : State} (hs : SupervisorInv s) : SupervisorInv (endWait r s) := by
  obtain ⟨hf, hsup⟩ := endWait_frame r s
  exact hs.of_kept (.of_frame hf (by simp) (by rw [hsup]) (by rw [hsup]))
    (hs.selection.of_states_kept (by constructor <;> rw [hsup]) (by rw [hsup]) (by rw [hsup]))

theorem endWaitIf_supervisorInv {p : Prop} [Decidable p] {r : Option Reply} {s : State} (hs : SupervisorInv s) :
    SupervisorInv (if p then endWait r s else s) := by
  split
  · exact endWait_supervisorInv hs
  · exact hs

theorem superviseCycle_supervisorInv {s : State} (hs : SupervisorInv s) : SupervisorInv (superviseCycle s) := by
  refine hs.of_kept (.of_frame (superviseCycle_frame s) (by simp) rfl rfl)
    (hs.selection.of_states (by constructor <;> rfl) (fun w => ?_) (fun w => ?_))
  · cases w <;> exact SourceState.run_off _ _
  · cases w <;> exact fun h => (SourceState.run_isQualified _ _).trans h

theorem sourceEdge_supervisorInv {w : Watched} {s : State} (hs : SupervisorInv s) :
    SupervisorInv (s.setWatched w (s.watched w).edge) :=
  setWatched_supervisorInv hs (SourceState.edge_off _) fun h => (SourceState.edge_isQualified _).trans h

theorem qualify_supervisorInv {w : Watched} {s : State} (hs : SupervisorInv s) : SupervisorInv (qualify w s) := by
  unfold qualify
  split
  · next e m hw =>
    have marked : SupervisorInv (s.setWatched w (.qualified (.running 0) m)) :=
      setWatched_supervisorInv hs (by simp [hw]) fun _ => rfl
    have hq : ((s.setWatched w (.qualified (.running 0) m)).sourceState w.source).isQualified = true := by
      simp [SourceState.isQualified]
    split
    · dsimp only
      split
      · exact endWait_supervisorInv (selectWithNotice_supervisorInv marked hq)
      · split
        · exact switchTo_supervisorInv marked hq
        · exact marked
    · exact hs
  · exact hs

theorem endHoldOff_supervisorInv {w : Watched} {s : State} (hs : SupervisorInv s) :
    SupervisorInv (endHoldOff w s) := by
  unfold endHoldOff
  split
  · next e m hw =>
    have marked : SupervisorInv (s.setWatched w (.qualified .elapsed m)) :=
      setWatched_supervisorInv hs (by simp [hw]) fun _ => rfl
    split
    · dsimp only
      split
      · exact selectWithNotice_supervisorInv marked (by simp [SourceState.isQualified])
      · exact marked
    · exact hs
  · exact hs

theorem timeOutWait_supervisorInv {s : State} (hs : SupervisorInv s) : SupervisorInv (timeOutWait s) := by
  unfold timeOutWait
  split
  · exact endWaitIf_supervisorInv hs
  · exact hs

/-! ### The count -/

theorem takeAdvance_settingsKept (m : Nat) (levels : Quad Level) (s : State) :
    SettingsKept s (takeAdvance m levels s) := by
  refine ⟨takeAdvance_power m levels s, by rw [takeAdvance_sup], by rw [takeAdvance_sup], ?_⟩
  rcases Nat.lt_or_ge (fineCount s + m) countLimit with h | h
  · obtain ⟨-, hret, -⟩ := takeAdvance_of_lt (levels := levels) h
    rw [hret]
    split
    · exact settings_map_of_count _ _ _
    · rfl
  · obtain ⟨-, -, -, -, -, -, -, -, -, -, -, -, hret, -⟩ := takeAdvance_of_le (levels := levels) h
    rw [hret (by simp)]

theorem takeAdvance_supervisorInv {m : Nat} {levels : Quad Level} {s : State} (hs : SupervisorInv s) :
    SupervisorInv (takeAdvance m levels s) :=
  hs.of_kept (takeAdvance_settingsKept m levels s) (hs.selection.of_sup (takeAdvance_sup m levels s))

theorem advance_supervisorInv {levels : Quad Level} {s : State} (hs : SupervisorInv s) :
    SupervisorInv (advance levels s) := by
  rw [advance_eq]
  exact takeAdvance_supervisorInv (hs.of_kept (.of_frame (slewApplied_frame s) (by simp) rfl rfl)
    ⟨hs.selection.toNamedOk.of_eq rfl rfl rfl rfl, hs.selection.selected, fun x c => by cases c⟩)

theorem firstSet_settingsKept (value : Nat) (s : State) : SettingsKept s (firstSet value s) := by
  obtain ⟨-, hsup, -, -, -, -, -, -, -, hpower, -⟩ := firstSet_frame value s
  refine ⟨hpower (by simp), by rw [hsup (by simp)], by rw [hsup (by simp)], ?_⟩
  rw [firstSet_retained]
  cases s.retained <;> rfl

theorem stepTaken_settingsKept (d : Int) (clearResidue : Bool) (s : State) :
    SettingsKept s (stepTaken d clearResidue s) := ⟨rfl, rfl, rfl, settings_map_of_count _ _ _⟩

theorem applyStep_supervisorInv {d : Int} {clearResidue : Bool} {s : State} (hs : SupervisorInv s) :
    SupervisorInv (applyStep d clearResidue s) :=
  (hs.of_kept (stepTaken_settingsKept d clearResidue s) (hs.selection.of_sup rfl)).of_other
    (applyStep_frame d clearResidue s) (by simp)

theorem firstSet_supervisorInv {value : Nat} {s : State} (hs : SupervisorInv s) :
    SupervisorInv (firstSet value s) := by
  obtain ⟨-, hsup, -⟩ := firstSet_frame value s
  exact hs.of_kept (firstSet_settingsKept value s) (hs.selection.of_sup (hsup (by simp)))

theorem setTimeAt_supervisorInv {v : TimeArg} {s : State} (hs : SupervisorInv s) :
    SupervisorInv (setTimeAt v s).1 := by
  unfold setTimeAt
  split
  · exact hs
  · split
    · exact firstSet_supervisorInv hs
    · exact applyStep_supervisorInv hs

theorem stepAt_supervisorInv {v : StepArg} {s : State} (hs : SupervisorInv s) : SupervisorInv (stepAt v s).1 := by
  unfold stepAt
  split
  · exact hs
  · split
    · exact hs
    · dsimp only
      split
      · exact applyStep_supervisorInv hs
      · exact hs

/-! ### A loss (R24, R28) -/

theorem failover_sup (m : Nat) (levels : Quad Level) (s : State) : (failover m levels s).sup = { s.sup with
    selected := firstQualified (takeAdvance m levels s), leaving := none, startUp := false } := by
  rw [failover, postAll_sup, takeAdvance_sup]

/-- A failover needs no more of the selection than that the list and the source states agree. -/
theorem failover_selectionOk {m : Nat} {levels : Quad Level} {s : State} (hs : NamedOk s) :
    SelectionOk (failover m levels s) := by
  have hsup := failover_sup m levels s
  rw [takeAdvance_firstQualified] at hsup
  generalize failover m levels s = t at hsup ⊢
  have states : ∀ y, t.sourceState y = s.sourceState y := State.sourceState_congr (by rw [hsup]) (by rw [hsup])
  refine ⟨hs.of_eq (by rw [hsup]) (by rw [hsup]) (by rw [hsup]) (by rw [hsup]), ?_,
    fun x c => by rw [hsup] at c; cases c⟩
  rw [states, hsup]
  exact firstQualified_isQualified s

theorem lossPosted_settingsKept (s : State) : SettingsKept s (lossPosted s) := by
  refine SettingsKept.trans (t := failedOver s) ?_ (.of_other (postAll_frame _ _) (by simp))
  exact .of_frame (withSup_frame _ _) (by simp) rfl rfl

theorem failover_settingsKept (m : Nat) (levels : Quad Level) (s : State) :
    SettingsKept s (failover m levels s) := by
  rw [failover_eq]
  exact (takeAdvance_settingsKept m levels s).trans (lossPosted_settingsKept _)

theorem loseSource_supervisorInv {w : Watched} {levels : Quad Level} {s : State} (hs : SupervisorInv s) :
    SupervisorInv (loseSource w levels s) := by
  unfold loseSource
  split
  · next hdue =>
    have hlost : s.watched w ≠ .off := SourceState.ne_off_of_lossDue hdue
    have kept := setWatched_settingsKept w .failed s
    have named : NamedOk (s.setWatched w .failed) := by
      refine ⟨by simpa using hs.selection.settings, fun v => ?_⟩
      rw [State.setWatched_watched, State.setWatched_list, ← hs.selection.off v]
      split
      · next e => simp [e, hlost]
      · exact Iff.rfl
    have others : ∀ x, x ≠ w.source → (s.sourceState x).isQualified = true →
        ((s.setWatched w .failed).sourceState x).isQualified = true := fun x hx hq => by
      rw [State.setWatched_sourceState, if_neg hx]
      exact hq
    dsimp only
    refine endWaitIf_supervisorInv ?_
    split
    · exact hs.of_kept (kept.trans (failover_settingsKept _ _ _)) (failover_selectionOk named)
    · next hsel =>
      have selected :
          ((s.setWatched w .failed).sourceState (s.setWatched w .failed).sup.selected).isQualified = true := by
        rw [State.setWatched_selected]
        exact others _ hsel hs.selection.selected
      split
      · exact hs.of_kept (kept.trans (.of_frame (withSup_frame _ _) (by simp) rfl rfl))
          (named.selectionOk_of_none selected)
      · next hleave =>
        refine hs.of_kept kept ⟨named, selected, fun x hx => ?_⟩
        rw [State.setWatched_leaving] at hx
        rw [State.setWatched_selected]
        obtain ⟨hne, hq⟩ := hs.selection.leaving x hx
        exact ⟨hne, others x (fun e => hleave (e ▸ hx)) hq⟩
  · exact hs

/-! ### A trim written (R32) -/

/-- A trim in range written leaves the settings in range. -/
theorem SettingsOk.set {l : List Source} {trims : PerSource Int} (hs : SettingsOk l trims) {x : Source} {v : Int}
    (hv : -50000000 ≤ v ∧ v ≤ 50000000) : SettingsOk l (trims.set x v) := by
  obtain ⟨hne, hnodup, hrange⟩ := hs
  refine ⟨hne, hnodup, fun y => ?_⟩
  rw [PerSource.get_set]
  split
  · exact hv
  · exact hrange y

/-- What is retained is written as what is in use (R172). -/
theorem SettingsInv.of_written {s t : State} {f : Retained → Retained} (hs : SettingsInv s)
    (hpower : t.power = s.power) (hret : t.retained = s.retained.map f)
    (hf : ∀ r, SettingsOk r.list r.trims → SettingsOk (f r).list (f r).trims)
    (hcopy : ∀ r, r.list = s.sup.list ∧ r.trims = s.sup.trims →
      (f r).list = t.sup.list ∧ (f r).trims = t.sup.trims) : SettingsInv t := by
  have run : t.running = s.running := by rw [State.running, State.running, hpower]
  refine ⟨⟨fun r hr => ?_, ?_, ?_⟩, fun hr => ⟨fun r hx => ?_, ?_⟩⟩
  · rw [hret] at hr
    obtain ⟨x, hx, rfl⟩ := Option.map_eq_some_iff.1 hr
    exact hf x (hs.settings x hx)
  · rw [hpower, hret, Option.isSome_map]
    exact hs.present
  · rw [hpower]
    exact hs.absence
  · rw [hret] at hx
    obtain ⟨x, hy, rfl⟩ := Option.map_eq_some_iff.1 hx
    exact hcopy x ((hs.copies (run ▸ hr)).equal x hy)
  · rw [hpower]
    exact (hs.copies (run ▸ hr)).present

theorem setTrimAt_supervisorInv {source : Byte} {trim : BitVec 32} {s : State} (hs : SupervisorInv s) :
    SupervisorInv (setTrimAt source trim s).1 := by
  unfold setTrimAt
  split
  · next x v hx hv =>
    have hrange := trimOf_inRange hv
    have hsel := hs.selection
    refine (supervisorInv_iff _).2 ⟨⟨⟨hsel.settings.set hrange, hsel.off⟩, hsel.selected, hsel.leaving⟩,
      hs.settingsInv.of_written rfl rfl (fun r hr => hr.set hrange) fun r ⟨hlist, htrims⟩ => ⟨hlist, ?_⟩⟩
    exact congrArg (PerSource.set · x v) htrims
  · exact hs

/-! ### A list stored (R33, R34) -/

theorem SourceState.underList_off {x : SourceState} {named : Bool} : x.underList named = .off ↔ named = false := by
  cases named <;> cases x <;> simp [SourceState.underList]

/-- A QUALIFIED source that a stored list does not take OFF stays QUALIFIED. -/
theorem SourceState.underList_isQualified {x : SourceState} {named : Bool} (hx : x.isQualified = true)
    (h : x.underList named ≠ .off) : (x.underList named).isQualified = true := by
  cases named with
  | false => exact absurd rfl h
  | true => cases x <;> simp_all [SourceState.underList, SourceState.isQualified]

theorem storeList_watched (l : List Source) (s : State) (w : Watched) :
    (storeList l s).watched w = (s.watched w).underList (w.source ∈ l) := by
  cases w <;> rfl

theorem storeList_isQualified {l : List Source} {s : State} {x : Source} (hx : (s.sourceState x).isQualified = true)
    (h : (storeList l s).sourceState x ≠ .off) : ((storeList l s).sourceState x).isQualified = true := by
  rcases Source.eq_rc_or_watched x with rfl | ⟨w, rfl⟩
  · rfl
  · rw [State.sourceState_source] at hx h ⊢
    rw [storeList_watched] at h ⊢
    exact SourceState.underList_isQualified hx h

theorem storeList_namedOk {l : List Source} {s : State} (hs : NamedOk s) (hne : l ≠ []) (hnodup : l.Nodup) :
    NamedOk (storeList l s) := by
  obtain ⟨-, -, hrange⟩ := hs.settings
  refine ⟨⟨hne, hnodup, hrange⟩, fun w => ?_⟩
  rw [storeList_watched, SourceState.underList_off, decide_eq_false_iff_not]
  rfl

/-- A source that a list or its fallback names is not taken OFF. -/
theorem NamedOk.ne_off_of_effective {s : State} (hs : NamedOk s) {x : Source} (hx : x ∈ effectiveList s.sup.list) :
    s.sourceState x ≠ .off := by
  rcases Source.eq_rc_or_watched x with rfl | ⟨w, rfl⟩
  · exact fun c => by cases c
  · rw [State.sourceState_source]
    intro c
    rcases mem_effectiveList.1 hx with h | h
    · exact (hs.off w).1 c h
    · cases w <;> cases h

theorem storeList_settingsInv {l : List Source} {s : State} (hs : SettingsInv s) (hne : l ≠ [])
    (hnodup : l.Nodup) : SettingsInv (storeList l s) :=
  hs.of_written rfl rfl (fun _ ⟨_, _, hrange⟩ => ⟨hne, hnodup, hrange⟩) fun _ ⟨_, htrims⟩ => ⟨rfl, htrims⟩

theorem storeBridge_settingsKept (before : State) (levels : Quad Level) (s : State) :
    SettingsKept s (storeBridge before levels s) := by
  unfold storeBridge
  split
  · have dropped : SettingsKept s { s with sup := { s.sup with leaving := none } } :=
      .of_frame (withSup_frame _ s) (by simp) rfl rfl
    exact dropped.trans (takeAdvance_settingsKept _ _ _)
  · exact .refl s

theorem selectAtStore_settingsKept (before : State) (x : Source) (s : State) :
    SettingsKept s (selectAtStore before x s) :=
  .of_frame (selectAtStore_frame before x s) (by simp) (by rw [selectAtStore, postAll_sup]; rfl)
    (by rw [selectAtStore, postAll_sup]; rfl)

/-- No source is bridged exactly while the store leaves the selected source on and the one being left. -/
theorem bridgedSource_eq_none {before s : State} : bridgedSource before s = none ↔
    s.sourceState before.sup.selected ≠ .off ∧ ∀ x, before.sup.leaving = some x → s.sourceState x ≠ .off := by
  unfold bridgedSource
  split
  · next h => simp [h]
  · next h => simp [h, Option.filter_eq_none_iff]

/-- A store that leaves the selected source on leaves a consistent selection behind its bridge (R30, log 10). -/
theorem storeBridge_selectionOk {l : List Source} {levels : Quad Level} {s : State} (hs : SelectionOk s)
    (hnamed : NamedOk (storeList l s)) (hon : (storeList l s).sourceState s.sup.selected ≠ .off) :
    SelectionOk (storeBridge s levels (storeList l s)) := by
  have hsup := storeBridge_sup s levels (storeList l s)
  generalize storeBridge s levels (storeList l s) = t at hsup ⊢
  have states : ∀ y, t.sourceState y = (storeList l s).sourceState y :=
    State.sourceState_congr (by rw [hsup]) (by rw [hsup])
  refine ⟨hnamed.of_eq (by rw [hsup]) (by rw [hsup]) (by rw [hsup]) (by rw [hsup]), ?_, fun x hx => ?_⟩
  · rw [states, hsup]
    exact storeList_isQualified hs.selected hon
  · rw [states]
    rw [hsup] at hx ⊢
    dsimp only at hx
    split at hx
    · cases hx
    · next hb =>
      obtain ⟨-, honx⟩ := bridgedSource_eq_none.1 (by simpa using hb)
      obtain ⟨hne, hq⟩ := hs.leaving x hx
      exact ⟨hne, storeList_isQualified hq (honx x hx)⟩

/-- The selection of a store, after its bridge (R34): consistent again also when the selected source went OFF. -/
theorem selectAtStore_selectionOk {before : State} {x : Source} {s : State} (hnamed : NamedOk s)
    (hon : s.sourceState before.sup.selected ≠ .off → SelectionOk s) (hx : (s.sourceState x).isQualified = true) :
    SelectionOk (selectAtStore before x s) := by
  unfold selectAtStore
  refine SelectionOk.of_sup ?_ (postAll_sup _ _)
  have states : ∀ y, (switchTo x s).sourceState y = s.sourceState y := State.sourceState_congr rfl rfl
  by_cases hoff : s.sourceState before.sup.selected = .off
  · simp only [hoff, decide_true, if_true]
    exact NamedOk.selectionOk_of_none (hnamed.of_eq rfl rfl rfl rfl) ((states _).symm ▸ hx)
  · simp only [hoff, decide_false, Bool.false_eq_true, if_false]
    exact (hon hoff).switchTo hx

theorem listStored_supervisorInv {l : List Source} {levels : Quad Level} {s : State} (hs : SupervisorInv s)
    (hne : l ≠ []) (hnodup : l.Nodup) : SupervisorInv (listStored l levels s) := by
  have named : NamedOk (storeList l s) := storeList_namedOk hs.selection.toNamedOk hne hnodup
  have bridged := storeBridge_settingsKept s levels (storeList l s)
  have stored := (storeList_settingsInv hs.settingsInv hne hnodup).of_kept bridged
  have onSelected := storeBridge_selectionOk (levels := levels) hs.selection named
  have hsup := storeBridge_sup s levels (storeList l s)
  cases h : storeSelection (storeList l s) with
  | none =>
    rw [listStored_of_none h]
    exact (supervisorInv_iff _).2 ⟨onSelected (named.ne_off_of_effective (storeSelection_none hne h)), stored⟩
  | some x =>
    rw [listStored_of_some h]
    generalize storeBridge s levels (storeList l s) = t at *
    have states : ∀ y, t.sourceState y = (storeList l s).sourceState y :=
      State.sourceState_congr (by rw [hsup]) (by rw [hsup])
    have namedAfter : NamedOk t := named.of_eq (by rw [hsup]) (by rw [hsup]) (by rw [hsup]) (by rw [hsup])
    exact (supervisorInv_iff _).2 ⟨selectAtStore_selectionOk namedAfter (fun hon => onSelected (states _ ▸ hon))
      ((states x).symm ▸ storeSelection_isQualified h), stored.of_kept (selectAtStore_settingsKept s x t)⟩

theorem waitStarted_supervisorInv {h : HostId} {s : State} (hs : SupervisorInv s) : SupervisorInv (waitStarted h s) :=
  hs.of_kept (.of_frame (withSup_frame _ s) (by simp) rfl rfl)
    (hs.selection.of_states_kept (by constructor <;> rfl) rfl rfl)

theorem setSourcesAt_supervisorInv {h : HostId} {v : ListArg} {levels : Quad Level} {s : State}
    (hs : SupervisorInv s) : SupervisorInv (setSourcesAt h v levels s).1 := by
  rcases setSourcesAt_cases h v levels s with e | ⟨l, hl, e⟩
  · rw [e]
    exact hs
  · obtain ⟨hne, hnodup⟩ := listOf_ok hl
    have stored := listStored_supervisorInv (levels := levels) hs hne hnodup
    rcases e with e | e
    · rw [e]
      exact stored
    · rw [e]
      exact waitStarted_supervisorInv stored

/-! ### The supplies (R168 to R177) -/

/-- The cold-start values of the supervisor are consistent (R38). -/
theorem SelectionOk.of_reset {s : State} (h : s.sup = State.reset.sup) : SelectionOk s :=
  reset_supervisorInv.selection.of_sup h

/-- A main reset selects RC, and waits for the edges of the sources that the retained list names (R38, R174). -/
theorem mainReset_selectionOk {s : State} (hs : DomainOk s) : SelectionOk (mainReset s) := by
  have settings : SettingsOk (s.retained.getD .coldStart).list (s.retained.getD .coldStart).trims := by
    cases h : s.retained with
    | none => exact coldStart_settingsOk
    | some r => exact hs.settings r h
  have started : ∀ w : Watched, (mainReset s).watched w =
      if w.source ∈ (s.retained.getD .coldStart).list then .waiting else .off := fun w => by cases w <;> rfl
  refine ⟨⟨settings, fun w => ?_⟩, rfl, fun x c => by cases c⟩
  rw [started]
  show _ ↔ w.source ∉ (s.retained.getD .coldStart).list
  split
  · next h => simp [h]
  · next h => simp [h]

theorem DomainOk.of_mainReset {s : State} (hs : DomainOk s) (hr : s.running = true) : DomainOk (mainReset s) := by
  obtain ⟨hop, -⟩ := (running_iff s).1 hr
  exact ⟨hs.settings, hs.present, fun h => by rw [mainReset_power, hop] at h; cases h⟩

/-- A main reset copies the retained settings, and ends a main-power absence (R174, R176). -/
theorem mainReset_copiesOk (s : State) : CopiesOk (mainReset s) := by
  refine ⟨fun r hr => ?_, rfl⟩
  rw [mainReset_retained] at hr
  show r.list = (s.retained.getD .coldStart).list ∧ r.trims = (s.retained.getD .coldStart).trims
  rw [hr]
  exact ⟨rfl, rfl⟩

/-- Where the main-reset conditions end, or one of them still holds. -/
theorem resetIfEnded_supervisorInv {s : State} (hs : SelectionOk s) (hd : DomainOk s) :
    SupervisorInv (resetIfEnded s) := by
  cases hr : s.running with
  | true =>
    rw [resetIfEnded_of_running hr]
    exact (supervisorInv_iff _).2 ⟨mainReset_selectionOk hd, hd.of_mainReset hr, fun _ => mainReset_copiesOk s⟩
  | false =>
    rw [resetIfEnded_of_not_running hr]
    exact .of_stopped hs hd hr

/-- The retained domain loses its state only while the main domain stands still, and gains that of a cold start. -/
theorem retainedRise_supervisorInv {s : State} (hs : SelectionOk s)
    (hset : ∀ r, s.retained = some r → SettingsOk r.list r.trims)
    (habs : s.power.supply = .absent → s.power.absence = true) (hr : s.running = false) :
    SupervisorInv (retainedRise s) := by
  cases h : s.retained with
  | none =>
    rw [retainedRise_of_none h]
    refine .of_stopped (.of_reset rfl) ⟨fun r hx => ?_, fun _ => rfl, habs⟩ hr
    cases hx
    exact coldStart_settingsOk
  | some r =>
    rw [retainedRise_of_some (by simp [h])]
    exact .of_stopped hs ⟨hset, fun _ => by rw [h]; rfl, habs⟩ hr

/-- A low-power cycle works on the retained count only (R170). -/
theorem Retained.tick_settings (r : Retained) : r.tick.settings = r.settings := by
  rcases Nat.lt_or_ge (r.time * fine + r.residue + lpPeriod) countLimit with h | h
  · rw [Retained.tick_of_lt h, Retained.settings, Retained.settings]
  · rw [Retained.tick_of_le h, Retained.settings, Retained.settings]

theorem supply_supervisorInv {s t : State} (hs : SupervisorInv s) (h : SupplyStep s t) : SupervisorInv t := by
  have hsel := hs.selection
  have hdom := hs.settingsInv.toDomainOk
  cases h with
  | stands => exact hs
  | risen h | fallen h =>
    exact .of_stopped (hsel.of_sup rfl) ⟨hdom.settings, by simp [withSupply], by simp [withSupply]⟩
      (not_running_of_supply (by simp [withSupply]))
  | resetLow =>
    exact .of_stopped (hsel.of_sup rfl) ⟨hdom.settings, hdom.present, hdom.absence⟩ (not_running_of_resetLow rfl)
  | delayed e after h =>
    exact .of_stopped (hsel.of_sup rfl)
      ⟨hdom.settings, fun _ => hdom.present (.inr ⟨e, h⟩), by simp [withSupply]⟩
      (not_running_of_supply (by simp [withSupply]))
  | delayOver e h =>
    exact resetIfEnded_supervisorInv (hsel.of_sup rfl)
      ⟨hdom.settings, fun _ => hdom.present (.inr ⟨e, h⟩), by simp [withSupply]⟩
  | resetHigh =>
    exact resetIfEnded_supervisorInv (hsel.of_sup rfl) ⟨hdom.settings, hdom.present, hdom.absence⟩
  | lost =>
    exact .of_stopped (.of_reset rfl) ⟨hdom.settings, by simp [supplyLost], fun _ => rfl⟩
      (not_running_of_supply (by simp [supplyLost]))
  | ticked =>
    refine hs.of_kept ⟨rfl, rfl, rfl, ?_⟩ (hsel.of_sup rfl)
    rw [Option.map_map]
    exact congrArg (Option.map · s.retained) (funext Retained.tick_settings)
  | retainedLost h =>
    have hop : s.power.supply ≠ .operating := by rcases h with h | h <;> simp [h]
    have hup : ∀ e, s.power.supply ≠ .powerUp e := by rcases h with h | h <;> simp [h]
    exact .of_stopped (hsel.of_sup rfl)
      ⟨fun r hr => (by cases hr), fun hp => (hp.elim hop fun ⟨e, he⟩ => hup e he).elim, hdom.absence⟩
      (not_running_of_supply hop)
  | rising =>
    exact retainedRise_supervisorInv (hsel.of_sup rfl) hdom.settings (by simp [withSupply])
      (not_running_of_supply (by simp [withSupply]))
  | coldStart =>
    cases h : s.retained with
    | none =>
      refine retainedRise_supervisorInv hsel hdom.settings hdom.absence (not_running_of_supply fun hop => ?_)
      have retained := hdom.present (.inl hop)
      rw [h] at retained
      cases retained
    | some r =>
      rw [retainedRise_of_some (by simp [h])]
      exact hs

/-! ### Every step -/

theorem handOver_supervisorInv {old : HostId} {torn : Bool} {s : State} (hs : SupervisorInv s) :
    SupervisorInv (handOver old torn s) :=
  endWaitIf_supervisorInv (hs.of_other (grantNext_frame s) (by simp))

theorem expireLease_supervisorInv {s : State} (hs : SupervisorInv s) : SupervisorInv (expireLease s) := by
  unfold expireLease
  split
  · split
    · exact handOver_supervisorInv (hs.of_other (post_frame _ _ _) (by simp))
    · exact hs
  · exact hs

theorem releaseAt_supervisorInv {h : HostId} {s : State} (hs : SupervisorInv s) : SupervisorInv (releaseAt h s).1 := by
  unfold releaseAt
  split
  · exact handOver_supervisorInv hs
  · exact hs

theorem teardown_supervisorInv {h : HostId} {s : State} (hs : SupervisorInv s) : SupervisorInv (teardown h s) := by
  have hsup := teardown_sup h s
  exact hs.of_kept (.of_frame (teardown_frame h s) (by simp) (by rw [hsup]) (by rw [hsup]))
    (hs.selection.of_states_kept (by constructor <;> rw [hsup]) (by rw [hsup]) (by rw [hsup]))

theorem requestsKeep_supervisorInv : RequestsKeep SupervisorInv := by
  intro h levels r s _ _ _ hs
  cases r with
  | attach => exact hs.of_other (attachAt_frame h s) (by simp)
  | detach => exact teardown_supervisorInv hs
  | setTime v => exact setTimeAt_supervisorInv hs
  | step v => exact stepAt_supervisorInv hs
  | slew v => exact hs.of_other (slewAt_frame v s) (by simp)
  | setTrim source trim => exact setTrimAt_supervisorInv hs
  | setSources v => exact setSourcesAt_supervisorInv hs
  | claim lease => exact hs.of_other (claimAt_frame h lease s) (by simp)
  | release => exact releaseAt_supervisorInv hs
  | withdraw => exact hs.of_other (withdrawAt_frame h s) (by simp)
  | alloc => exact hs.of_other (allocAt_frame h s) (by simp)
  | free slot => exact hs.of_other (freeAt_frame h slot s) (by simp)
  | arm v => exact hs.of_other (armAt_frame h v s) (by simp)
  | cancel slot => exact hs.of_other (cancelAt_frame h slot s) (by simp)
  | timerStatus slot => exact (timerStatusAt_state h slot s).symm ▸ hs
  | take => exact hs.of_other (takeAt_frame h s) (by simp)
  | ack => exact hs.of_other (ackAt_frame h s) (by simp)
  | peek => exact hs.of_other (peekAt_frame h s) (by simp)
  | setThreshold v => exact hs.of_other (setThresholdAt_frame h v s) (by simp)
  | bindPin pin idle width => exact hs.of_other (bindPinAt_frame h pin idle width s) (by simp)
  | unbindPin pin => exact hs.of_other (unbindPinAt_frame h pin s) (by simp)
  | drivePin pin action => exact hs.of_other (drivePinAt_frame h pin action s) (by simp)
  | pinStatus pin => exact (pinStatusAt_state pin s).symm ▸ hs
  | setEdges input selection => exact hs.of_other (setEdgesAt_frame input selection s) (by simp)
  | subscribe input cls => exact hs.of_other (subscribeAt_frame h input cls s) (by simp)
  | unsubscribe input => exact hs.of_other (unsubscribeAt_frame h input s) (by simp)
  | readCapture which => exact hs.of_other (readCaptureAt_frame h which s) (by simp)
  | status | echo | sessions | readTime | timeStatus | sourceStatus | authStatus => exact hs

theorem supervisorInv_seesOnlySessions : SeesOnlySessions SupervisorInv := fun _ _ _ _ hs =>
  hs.of_other (setPort_frame _ _ _) (by simp)

/-- A new assertion of HRSTx tears down an attached host and works on its port (R164). -/
theorem hrstAssert_supervisorInv {h : HostId} {s t : State} (hs : SupervisorInv s)
    (e : exec (.hrstAssert h) s = .next t) : SupervisorInv t := by
  obtain rfl := Host.Outcome.next.inj e
  split
  · exact hs
  · split
    · refine supervisorInv_seesOnlySessions _ _ _ rfl ?_
      split
      · exact teardown_supervisorInv hs
      · exact hs
    · exact supervisorInv_seesOnlySessions _ _ _ rfl hs

theorem commandsKeep_supervisorInv : CommandsKeep SupervisorInv where
  pending _ _ hs := hs
  showNothing _ _ hs := supervisorInv_seesOnlySessions.showNothing hs
  transaction _ _ _ _ _ hs := transaction_keeps supervisorInv_seesOnlySessions requestsKeep_supervisorInv _ _ hs
  requestRow _ _ _ _ _ hs := requestRow_keeps supervisorInv_seesOnlySessions requestsKeep_supervisorInv _ _ hs
  hrstAssert _ _ _ hs e := hrstAssert_supervisorInv hs e
  hrstRelease _ _ hs := supervisorInv_seesOnlySessions _ _ _ rfl hs
  advance _ _ hs := advance_supervisorInv hs
  expireHead _ hs := hs.of_other (expireReached_onlyChanges _ _ _ _) (by simp)
  endPulse p s hs := hs.of_other (endPulse_frame p s) (by simp)
  takeCapture s hs := hs.of_other (takeCapture_frame s) (by simp)
  expireLease _ hs := expireLease_supervisorInv hs
  superviseCycle _ hs := superviseCycle_supervisorInv hs
  sourceEdge _ _ hs := sourceEdge_supervisorInv hs
  loseSource _ _ _ hs := loseSource_supervisorInv hs
  qualify _ _ hs := qualify_supervisorInv hs
  endHoldOff _ _ hs := endHoldOff_supervisorInv hs
  timeOutWait _ hs := timeOutWait_supervisorInv hs
  supply _ _ hs h := supply_supervisorInv hs h

end Sys2Proof.Machine

namespace Sys2Proof.Proofs

open Sys2Proof.Machine

/-- Settles O10: every operation keeps the settings with their copies, and the selection consistent with the list; a
store and a failover, which part from the old selection, meet it anew. -/
theorem stepKeepsSupervisor : Obligations.StepKeepsSupervisor := by
  unfold Obligations.StepKeepsSupervisor
  exact fun _ _ hs h => commandsKeep_supervisorInv.step hs h

end Sys2Proof.Proofs
end

section
/-! The ports: a port is WORKING exactly while a SET_SOURCES wait runs for its host, who holds the authority; every step
keeps it (R35, R36, R40, R148, R154, R157). -/

namespace Sys2Proof.Machine

/-! ### One host -/

/-- The host for which a wait runs (R35). -/
def waitHost (s : State) : Option HostId := s.sup.wait.map (·.host)

/-- What the invariant of the ports says of host `g`. -/
structure HostOk (s : State) (g : HostId) : Prop where
  idle : (s.port g).phase = .idle → (s.port g).record = none
  working : (∃ op q, (s.port g).phase = .working op q) ↔ waitHost s = some g
  held : waitHost s = some g → holder s = some g ∧ s.attached g = true

theorem waitHost_eq_some {s : State} {g : HostId} : waitHost s = some g ↔ ∃ w, s.sup.wait = some w ∧ w.host = g :=
  Option.map_eq_some_iff

theorem waitHost_eq_none {s : State} : waitHost s = none ↔ s.sup.wait = none := Option.map_eq_none_iff

theorem portInv_iff (s : State) : PortInv s ↔ ∀ g, HostOk s g := by
  constructor
  · rintro ⟨hidle, hworking, hheld⟩ g
    refine ⟨hidle g, (hworking g).trans waitHost_eq_some.symm, fun h => ?_⟩
    obtain ⟨w, hw, rfl⟩ := waitHost_eq_some.1 h
    exact hheld w hw
  · intro hs
    exact ⟨fun g => (hs g).idle, fun g => (hs g).working.trans waitHost_eq_some,
      fun w hw => (hs w.host).held (waitHost_eq_some.2 ⟨w, hw, rfl⟩)⟩

/-- A host sees its port, whether a wait runs for it, and whether the authority stays with it while one does. -/
theorem HostOk.of_eq {s t : State} {g : HostId} (hs : HostOk s g) (hport : t.port g = s.port g)
    (hwait : waitHost t = some g ↔ waitHost s = some g)
    (hheld : waitHost s = some g → holder s = some g → holder t = some g) : HostOk t g := by
  refine ⟨by rw [hport]; exact hs.idle, by rw [hport, hwait]; exact hs.working, fun h => ?_⟩
  obtain ⟨hholder, hatt⟩ := hs.held (hwait.1 h)
  exact ⟨hheld (hwait.1 h) hholder, by rw [State.attached, hport]; exact hatt⟩

/-- The ports, the host of the wait and the holder stand. -/
structure WaitsKept (s t : State) : Prop where
  ports : t.ports = s.ports
  wait : waitHost t = waitHost s
  holder : holder t = holder s

theorem WaitsKept.refl (s : State) : WaitsKept s s := ⟨rfl, rfl, rfl⟩

theorem WaitsKept.trans {s t u : State} (h : WaitsKept s t) (k : WaitsKept t u) : WaitsKept s u :=
  ⟨k.ports.trans h.ports, k.wait.trans h.wait, k.holder.trans h.holder⟩

theorem WaitsKept.of_frame {ps : List Part} {s t : State} (hf : OnlyChanges ps s t)
    (hps : [.auth, .ports].Disjoint ps) (hwait : waitHost t = waitHost s) : WaitsKept s t := by
  obtain ⟨-, -, -, -, hauth, -, -, hports, -⟩ := hf
  exact ⟨hports (hps (by simp)), hwait, by rw [Machine.holder, hauth (hps (by simp)), Machine.holder]⟩

theorem WaitsKept.of_other {ps : List Part} {s t : State} (hf : OnlyChanges ps s t)
    (hps : [.sup, .auth, .ports].Disjoint ps) : WaitsKept s t := by
  have hsup : t.sup = s.sup := by
    obtain ⟨-, hsup, -⟩ := hf
    exact hsup (hps (by simp))
  exact .of_frame hf (fun _ hp => hps (List.mem_cons_of_mem _ hp)) (by rw [waitHost, hsup, waitHost])

theorem WaitsKept.port {s t : State} (h : WaitsKept s t) (g : HostId) : t.port g = s.port g := by
  rw [State.port, h.ports, State.port]

theorem PortInv.of_kept {s t : State} (hs : PortInv s) (hk : WaitsKept s t) : PortInv t :=
  (portInv_iff t).2 fun g => ((portInv_iff s).1 hs g).of_eq (hk.port g) (by rw [hk.wait])
    fun _ hh => hk.holder.trans hh

theorem PortInv.of_other {ps : List Part} {s t : State} (hs : PortInv s) (hf : OnlyChanges ps s t)
    (hps : [.sup, .auth, .ports].Disjoint ps) : PortInv t := hs.of_kept (.of_other hf hps)

/-- No wait runs, and no port has taken a request. -/
theorem PortInv.of_idle {s : State} (hport : ∀ g, (s.port g).phase = .idle ∧ (s.port g).record = none)
    (hwait : s.sup.wait = none) : PortInv s := by
  refine (portInv_iff s).2 fun g => ?_
  obtain ⟨hidle, hrecord⟩ := hport g
  have hnone := waitHost_eq_none.2 hwait
  exact ⟨fun _ => hrecord, by simp [hidle, hnone], fun h => by rw [hnone] at h; cases h⟩

/-- What shows a status byte, or moves a line: the protocol state of the port stands. -/
theorem PortInv.setPort_same {h : HostId} {x : Port} {s : State} (hs : PortInv s)
    (hphase : x.phase = (s.port h).phase) (hrecord : x.record = (s.port h).record)
    (hatt : x.attached = (s.port h).attached) : PortInv (s.setPort h x) := by
  refine (portInv_iff _).2 fun g => ?_
  obtain ⟨hidle, hworking, hheld⟩ := (portInv_iff s).1 hs g
  by_cases hg : g = h
  · subst hg
    refine ⟨?_, ?_, fun hw => ?_⟩
    · rw [State.setPort_port_self, hphase, hrecord]
      exact hidle
    · rw [State.setPort_port_self, hphase]
      exact hworking
    · rw [State.setPort_attached, if_pos rfl, hatt]
      exact hheld hw
  · exact HostOk.of_eq ⟨hidle, hworking, hheld⟩ (by rw [State.setPort_port, if_neg hg]) Iff.rfl fun _ => id

/-! ### A wait that ends -/

/-- The ports agree with the wait, wherever the authority is. -/
structure PhasesOk (s : State) : Prop where
  idle : ∀ g, (s.port g).phase = .idle → (s.port g).record = none
  working : ∀ g, (∃ op q, (s.port g).phase = .working op q) ↔ waitHost s = some g

theorem PortInv.phases {s : State} (hs : PortInv s) : PhasesOk s :=
  ⟨fun g => ((portInv_iff s).1 hs g).idle, fun g => ((portInv_iff s).1 hs g).working⟩

theorem PhasesOk.of_eq {s t : State} (hs : PhasesOk s) (hports : t.ports = s.ports)
    (hwait : waitHost t = waitHost s) : PhasesOk t := by
  have port : ∀ g, t.port g = s.port g := fun g => by rw [State.port, hports, State.port]
  exact ⟨fun g => by rw [port]; exact hs.idle g, fun g => by rw [port, hwait]; exact hs.working g⟩

/-- Without a wait no holder is asked for. -/
theorem PhasesOk.portInv_of_none {s : State} (hs : PhasesOk s) (hw : waitHost s = none) : PortInv s :=
  (portInv_iff s).2 fun g => ⟨hs.idle g, hs.working g, fun h => by rw [hw] at h; cases h⟩

/-- A wait that ends with an answer ends at the one WORKING port (R35, R157). -/
theorem PhasesOk.endWait {s : State} (hs : PhasesOk s) (r : Reply) : PortInv (endWait (some r) s) := by
  cases hw : s.sup.wait with
  | none =>
    rw [endWait_of_none _ _ hw]
    exact hs.portInv_of_none (waitHost_eq_none.2 hw)
  | some w =>
    obtain ⟨op, q, hp⟩ := (hs.working w.host).2 (waitHost_eq_some.2 ⟨w, hw, rfl⟩)
    rw [endWait_answered s hw hp]
    refine PhasesOk.portInv_of_none ⟨fun g => ?_, fun g => ?_⟩ rfl
    · rw [holdAnswer, State.setPort_port]
      split
      · exact fun c => by cases c
      · exact hs.idle g
    · rw [holdAnswer, State.setPort_port]
      refine iff_of_false ?_ fun c => by cases c
      split
      · exact fun ⟨_, _, c⟩ => by cases c
      · next hg =>
        intro c
        obtain ⟨v, hv, rfl⟩ := waitHost_eq_some.1 ((hs.working g).1 c)
        cases hw.symm.trans hv
        exact hg rfl

theorem PortInv.endWait {s : State} (hs : PortInv s) (r : Reply) : PortInv (endWait (some r) s) :=
  hs.phases.endWait r

/-- A hand-over ends the wait of the old holder, the only one that can run (R36). -/
theorem handOver_portInv {old : HostId} {s : State} (hs : PortInv s) (hh : holder s = some old) :
    PortInv (handOver old false s) := by
  by_cases hw : ∃ w, s.sup.wait = some w ∧ w.host = old
  · obtain ⟨-, hsup, -, -, -, -, -, hports, -⟩ := grantNext_frame s
    have granted : PhasesOk (grantNext s) :=
      hs.phases.of_eq (hports (by simp)) (by rw [waitHost, hsup (by simp), waitHost])
    obtain ⟨w, hw, e⟩ := hw
    rw [handOver_of_wait hw e]
    exact granted.endWait _
  · rw [handOver_of_no_wait fun w hx e => hw ⟨w, hx, e⟩]
    have none : waitHost s = none := by
      cases hx : waitHost s with
      | none => rfl
      | some g =>
        obtain ⟨hg, -⟩ := ((portInv_iff s).1 hs g).held hx
        cases hh.symm.trans hg
        exact absurd (waitHost_eq_some.1 hx) hw
    obtain ⟨-, hsup, -, -, -, -, -, hports, -⟩ := grantNext_frame s
    have wait : waitHost (grantNext s) = waitHost s := by rw [waitHost, hsup (by simp), waitHost]
    exact (hs.phases.of_eq (hports (by simp)) wait).portInv_of_none (wait.trans none)

theorem expireLease_portInv {s : State} (hs : PortInv s) : PortInv (expireLease s) := by
  unfold expireLease
  split
  · next x hx =>
    split
    · have posted := post_frame x.host (arbiterNotice s .authLost none (some .expired)) s
      refine handOver_portInv (hs.of_other posted (by simp)) ?_
      rw [(WaitsKept.of_other posted (by simp)).holder]
      exact holder_of_holding hx
    · exact hs
  · exact hs

/-! ### The events of the supervisor -/

theorem switchTo_waitsKept (x : Source) (s : State) : WaitsKept s (switchTo x s) := ⟨rfl, rfl, rfl⟩

theorem setWatched_waitsKept (w : Watched) (x : SourceState) (s : State) : WaitsKept s (s.setWatched w x) :=
  .of_frame (setWatched_frame w x s) (by simp) (by rw [waitHost, State.setWatched_wait, waitHost])

theorem selectWithNotice_waitsKept (x : Source) (cause : Cause) (stamp : Nat) (s : State) :
    WaitsKept s (selectWithNotice x cause stamp s) := by
  unfold selectWithNotice
  split
  · exact .refl s
  · exact (switchTo_waitsKept x s).trans (.of_other (postAll_frame _ _) (by simp))

theorem takeAdvance_waitsKept (m : Nat) (levels : Quad Level) (s : State) : WaitsKept s (takeAdvance m levels s) := by
  refine ⟨takeAdvance_ports m levels s, by rw [waitHost, takeAdvance_sup, waitHost], ?_⟩
  rw [holder, takeAdvance_auth, Option.map_map, holder]
  rfl

theorem lossPosted_waitsKept (s : State) : WaitsKept s (lossPosted s) :=
  WaitsKept.trans (t := failedOver s) ⟨rfl, rfl, rfl⟩ (.of_other (postAll_frame _ _) (by simp))

theorem failover_waitsKept (m : Nat) (levels : Quad Level) (s : State) : WaitsKept s (failover m levels s) := by
  rw [failover_eq]
  exact (takeAdvance_waitsKept m levels s).trans (lossPosted_waitsKept _)

theorem superviseCycle_waitsKept (s : State) : WaitsKept s (superviseCycle s) := by
  refine .of_frame (superviseCycle_frame s) (by simp) ?_
  rw [waitHost, superviseCycle, Option.map_map, waitHost]
  rfl

theorem advance_waitsKept (levels : Quad Level) (s : State) : WaitsKept s (advance levels s) := by
  rw [advance_eq]
  exact (WaitsKept.of_frame (slewApplied_frame s) (by simp) rfl).trans (takeAdvance_waitsKept _ _ _)

theorem loseSource_portInv {w : Watched} {levels : Quad Level} {s : State} (hs : PortInv s) :
    PortInv (loseSource w levels s) := by
  have failed : PortInv (s.setWatched w .failed) := hs.of_kept (setWatched_waitsKept w .failed s)
  have ended : ∀ {p : Prop} [Decidable p] {r : Reply} {u : State}, PortInv u →
      PortInv (if p then endWait (some r) u else u) := fun hu => by
    split
    · exact hu.endWait _
    · exact hu
  unfold loseSource
  split
  · refine ended ?_
    split
    · exact failed.of_kept (failover_waitsKept _ _ _)
    · split
      · exact failed.of_kept ⟨rfl, rfl, rfl⟩
      · exact failed
  · exact hs

theorem qualify_portInv {w : Watched} {s : State} (hs : PortInv s) : PortInv (qualify w s) := by
  have marked : ∀ x, PortInv (s.setWatched w x) := fun x => hs.of_kept (setWatched_waitsKept w x s)
  unfold qualify
  split
  · split
    · dsimp only
      split
      · exact ((marked _).of_kept (selectWithNotice_waitsKept _ _ _ _)).endWait _
      · split
        · exact (marked _).of_kept (switchTo_waitsKept _ _)
        · exact marked _
    · exact hs
  · exact hs

theorem endHoldOff_portInv {w : Watched} {s : State} (hs : PortInv s) : PortInv (endHoldOff w s) := by
  have marked : ∀ x, PortInv (s.setWatched w x) := fun x => hs.of_kept (setWatched_waitsKept w x s)
  unfold endHoldOff
  split
  · split
    · dsimp only
      split
      · exact (marked _).of_kept (selectWithNotice_waitsKept _ _ _ _)
      · exact marked _
    · exact hs
  · exact hs

theorem timeOutWait_portInv {s : State} (hs : PortInv s) : PortInv (timeOutWait s) := by
  unfold timeOutWait
  split
  · split
    · exact hs.endWait _
    · exact hs
  · exact hs

/-! ### The request of one host -/

/-- While a request of `h` is carried out: the other hosts stand as the invariant says, and no wait runs for `h`. -/
structure Taking (h : HostId) (s : State) : Prop where
  others : ∀ g, g ≠ h → HostOk s g
  waitless : waitHost s ≠ some h

theorem PortInv.taking {h : HostId} {s : State} (hs : PortInv s) (hw : waitHost s ≠ some h) : Taking h s :=
  ⟨fun g _ => (portInv_iff s).1 hs g, hw⟩

/-- A port that is not WORKING has no wait. -/
theorem PortInv.taking_of_phase {h : HostId} {s : State} (hs : PortInv s)
    (hp : ∀ op q, (s.port h).phase ≠ .working op q) : Taking h s :=
  hs.taking fun c => by
    obtain ⟨op, q, e⟩ := ((portInv_iff s).1 hs h).working.2 c
    exact hp op q e

/-- What happens at the own port is left open. -/
theorem Taking.setPort {h : HostId} {s : State} (hs : Taking h s) (x : Port) : Taking h (s.setPort h x) :=
  ⟨fun g hg => (hs.others g hg).of_eq (by rw [State.setPort_port, if_neg hg]) Iff.rfl fun _ => id, hs.waitless⟩

/-- An answer held at the own port completes the invariant. -/
theorem Taking.portInv {h : HostId} {s : State} (hs : Taking h s)
    (hidle : (s.port h).phase = .idle → (s.port h).record = none)
    (hp : ∀ op q, (s.port h).phase ≠ .working op q) : PortInv s := by
  refine (portInv_iff s).2 fun g => ?_
  by_cases hg : g = h
  · subst hg
    exact ⟨hidle, iff_of_false (fun ⟨op, q, e⟩ => hp op q e) hs.waitless, fun c => absurd c hs.waitless⟩
  · exact hs.others g hg

theorem Taking.holdAnswer {h : HostId} {op q : Byte} {r : Reply} {s : State} (hs : Taking h s) :
    PortInv (holdAnswer h op q r s) := by
  refine (hs.setPort _).portInv ?_ ?_ <;> rw [State.setPort_port_self] <;> simp

theorem Taking.of_kept {h : HostId} {s t : State} (hs : Taking h s) (hk : WaitsKept s t) : Taking h t :=
  ⟨fun g hg => (hs.others g hg).of_eq (hk.port g) (by rw [hk.wait]) fun _ hh => hk.holder.trans hh,
    by rw [hk.wait]; exact hs.waitless⟩

theorem Taking.of_other {h : HostId} {ps : List Part} {s t : State} (hs : Taking h s) (hf : OnlyChanges ps s t)
    (hps : [.sup, .auth, .ports].Disjoint ps) : Taking h t := hs.of_kept (.of_other hf hps)

/-- A wait of another host lasts while that host holds the authority. -/
theorem Taking.of_auth {h : HostId} {ps : List Part} {s t : State} (hs : Taking h s) (hf : OnlyChanges ps s t)
    (hps : [.sup, .ports].Disjoint ps) (hh : ∀ g, g ≠ h → holder s = some g → holder t = some g) : Taking h t := by
  obtain ⟨-, hsup, -, -, -, -, -, hports, -⟩ := hf
  have port : ∀ g, t.port g = s.port g := fun g => by rw [State.port, hports (hps (by simp)), State.port]
  have wait : waitHost t = waitHost s := by rw [waitHost, hsup (hps (by simp)), waitHost]
  exact ⟨fun g hg => (hs.others g hg).of_eq (port g) (by rw [wait]) fun _ => hh g hg,
    by rw [wait]; exact hs.waitless⟩

/-- While `h` holds the authority no wait runs. -/
theorem Taking.no_wait {h : HostId} {s : State} (hs : Taking h s) (hh : holder s = some h) : waitHost s = none := by
  cases hw : waitHost s with
  | none => rfl
  | some g =>
    have hg : g ≠ h := fun e => hs.waitless (e ▸ hw)
    obtain ⟨hheld, -⟩ := (hs.others g hg).held hw
    exact absurd (Option.some.inj (hheld.symm.trans hh)) hg

/-- A teardown of `h` ends its wait, and leaves that of another holder (R36, R40). -/
theorem teardown_taking {h : HostId} {s : State} (hs : ∀ g, g ≠ h → HostOk s g) : Taking h (teardown h s) := by
  have wait : ∀ g, waitHost (teardown h s) = some g ↔ waitHost s = some g ∧ g ≠ h := fun g => by
    rw [waitHost, teardown_sup, waitHost]
    cases s.sup.wait with
    | none => simp
    | some w => by_cases e : w.host = h <;> simp [Option.filter_some, e] <;> rintro rfl <;> simp_all
  refine ⟨fun g hg => (hs g hg).of_eq ?_ ((wait g).trans (and_iff_left hg)) fun _ hh => ?_,
    fun c => ((wait h).1 c).2 rfl⟩
  · rw [teardown_port, if_neg hg]
  · obtain ⟨hauth, -⟩ := teardown_of_not_holder h s fun c => hg (Option.some.inj (hh.symm.trans c))
    rw [holder, hauth]
    exact hh

theorem claimAt_taking {h : HostId} {v : BitVec 16} {s : State} (hs : Taking h s) : Taking h (claimAt h v s).1 := by
  refine hs.of_auth (claimAt_frame h v s) (by simp) fun g hg hh => ?_
  obtain ⟨x, hx, rfl⟩ := Option.map_eq_some_iff.1 hh
  cases hn : leaseOf v with
  | none =>
    rw [claimAt_of_no_lease hn]
    exact hh
  | some n =>
    by_cases hw : ∃ w ∈ s.auth.waiting, w.host = h
    · rw [claimAt_of_waiting hn hx hg hw]
      exact hh
    · rw [claimAt_of_new hn hx hg fun w hm e => hw ⟨w, hm, e⟩]
      exact (holder_queued _ _ _ s).trans hh

theorem releaseAt_taking {h : HostId} {s : State} (hs : Taking h s) : Taking h (releaseAt h s).1 := by
  by_cases hh : holder s = some h
  · have none := waitHost_eq_none.1 (hs.no_wait hh)
    rw [releaseAt_of_holder hh fun w hw => by rw [none] at hw; cases hw]
    exact hs.of_auth (grantNext_frame s) (by simp) fun g hg hg' => absurd (Option.some.inj (hg'.symm.trans hh)) hg
  · rw [releaseAt_of_not_holder hh]
    exact hs

theorem withdrawAt_taking {h : HostId} {s : State} (hs : Taking h s) : Taking h (withdrawAt h s).1 := by
  refine hs.of_auth (withdrawAt_frame h s) (by simp) fun g _ hh => ?_
  unfold withdrawAt
  split <;> exact hh

/-! ### A list stored (R33 to R35) -/

theorem storeBridge_waitsKept (before : State) (levels : Quad Level) (s : State) :
    WaitsKept s (storeBridge before levels s) := by
  unfold storeBridge
  split
  · have dropped : WaitsKept s { s with sup := { s.sup with leaving := none } } := ⟨rfl, rfl, rfl⟩
    exact dropped.trans (takeAdvance_waitsKept _ _ _)
  · exact .refl s

theorem selectAtStore_waitsKept (before : State) (x : Source) (s : State) :
    WaitsKept s (selectAtStore before x s) := by
  refine .of_frame (selectAtStore_frame before x s) (by simp) ?_
  rw [waitHost, selectAtStore, postAll_sup, waitHost]
  rfl

theorem listStored_waitsKept (l : List Source) (levels : Quad Level) (s : State) :
    WaitsKept s (listStored l levels s) := by
  have stored : WaitsKept s (storeList l s) := ⟨rfl, rfl, rfl⟩
  have bridged := stored.trans (storeBridge_waitsKept s levels (storeList l s))
  unfold listStored
  split
  · exact bridged.trans (selectAtStore_waitsKept _ _ _)
  · exact bridged

/-- A wait that starts for the holder whose port is WORKING (R35). -/
theorem Taking.waitStarted {h : HostId} {s : State} (hs : Taking h s)
    (hp : ∃ op q, (s.port h).phase = .working op q) (hh : holder s = some h) (ha : s.attached h = true) :
    PortInv (waitStarted h s) := by
  refine (portInv_iff _).2 fun g => ?_
  by_cases hg : g = h
  · subst hg
    obtain ⟨op, q, hp⟩ := hp
    exact ⟨fun c => (by cases hp.symm.trans c), iff_of_true ⟨op, q, hp⟩ rfl, fun _ => ⟨hh, ha⟩⟩
  · have none := hs.no_wait hh
    refine (hs.others g hg).of_eq rfl (iff_of_false ?_ (by rw [none]; exact nofun)) fun _ => id
    exact fun c => hg (Option.some.inj c).symm

/-! ### Every request -/

/-- A request of `h` carried out: answered with no wait of `h`, or without an answer, a wait running for it. -/
structure Handled (h : HostId) (o : State × Option Reply) : Prop where
  answered : o.2 ≠ none → Taking h o.1
  waiting : o.2 = none → PortInv o.1

theorem Handled.of_answer {h : HostId} {t : State} {x : Reply} (ht : Taking h t) : Handled h (t, some x) :=
  ⟨fun _ => ht, nofun⟩

/-- Only SET_SOURCES can go without an answer. -/
theorem Taking.atOnce {h : HostId} {o : State × Reply} (ht : Taking h o.1) : Handled h (atOnce o) := .of_answer ht

theorem setSourcesAt_handled {h : HostId} {v : ListArg} {levels : Quad Level} {s : State} (hs : Taking h s)
    (hp : ∃ op q, (s.port h).phase = .working op q) (hh : holder s = some h) (ha : s.attached h = true) :
    Handled h (setSourcesAt h v levels s) := by
  rcases setSourcesAt_cases h v levels s with e | ⟨l, -, e⟩
  · exact e ▸ .of_answer hs
  · have kept := listStored_waitsKept l levels s
    have stored := hs.of_kept kept
    rcases e with e | e
    · exact e ▸ .of_answer stored
    · rw [e]
      refine ⟨fun c => absurd rfl c, fun _ => stored.waitStarted ?_ (kept.holder.trans hh) ?_⟩
      · rw [kept.port]
        exact hp
      · rw [State.attached, kept.port]
        exact ha

theorem carryOut_handled {h : HostId} {levels : Quad Level} {r : Request} {s : State}
    (hopen : s.attached h = true ∨ openToDetached r = true) (hauth : authorityOnly r = true → holder s = some h)
    (hp : ∃ op q, (s.port h).phase = .working op q) (hs : Taking h s) : Handled h (carryOut h levels r s) := by
  cases r with
  | setSources v => exact setSourcesAt_handled hs hp (hauth rfl) (by simpa [openToDetached] using hopen)
  | attach => exact Handled.of_answer (hs.setPort _)
  | detach => exact Handled.of_answer (teardown_taking hs.others)
  | setTime v => exact (hs.of_other (setTimeAt_frame v s) (by simp [countParts])).atOnce
  | step v => exact (hs.of_other (stepAt_frame v s) (by simp [countParts])).atOnce
  | slew v => exact (hs.of_other (slewAt_frame v s) (by simp)).atOnce
  | setTrim source trim =>
    refine (hs.of_kept (.of_frame (setTrimAt_frame source trim s) (by simp) ?_)).atOnce
    unfold setTrimAt
    split <;> rfl
  | claim lease => exact (claimAt_taking hs).atOnce
  | release => exact (releaseAt_taking hs).atOnce
  | withdraw => exact (withdrawAt_taking hs).atOnce
  | alloc => exact (hs.of_other (allocAt_frame h s) (by simp)).atOnce
  | free slot => exact (hs.of_other (freeAt_frame h slot s) (by simp)).atOnce
  | arm v => exact (hs.of_other (armAt_frame h v s) (by simp)).atOnce
  | cancel slot => exact (hs.of_other (cancelAt_frame h slot s) (by simp)).atOnce
  | timerStatus slot => exact Taking.atOnce ((timerStatusAt_state h slot s).symm ▸ hs)
  | take => exact (hs.of_other (takeAt_frame h s) (by simp)).atOnce
  | ack => exact (hs.of_other (ackAt_frame h s) (by simp)).atOnce
  | peek => exact (hs.of_other (peekAt_frame h s) (by simp)).atOnce
  | setThreshold v => exact (hs.of_other (setThresholdAt_frame h v s) (by simp)).atOnce
  | bindPin pin idle width => exact (hs.of_other (bindPinAt_frame h pin idle width s) (by simp)).atOnce
  | unbindPin pin => exact (hs.of_other (unbindPinAt_frame h pin s) (by simp)).atOnce
  | drivePin pin action => exact (hs.of_other (drivePinAt_frame h pin action s) (by simp)).atOnce
  | pinStatus pin => exact Taking.atOnce ((pinStatusAt_state pin s).symm ▸ hs)
  | setEdges input selection => exact (hs.of_other (setEdgesAt_frame input selection s) (by simp)).atOnce
  | subscribe input cls => exact (hs.of_other (subscribeAt_frame h input cls s) (by simp)).atOnce
  | unsubscribe input => exact (hs.of_other (unsubscribeAt_frame h input s) (by simp)).atOnce
  | readCapture which => exact (hs.of_other (readCaptureAt_frame h which s) (by simp)).atOnce
  | status | echo | sessions | readTime | timeStatus | sourceStatus | authStatus => exact .of_answer hs

section Validated

variable {h : HostId} {levels : Quad Level} {s : State} (hp : ∃ op q, (s.port h).phase = .working op q)
  (hs : Taking h s)

include hp hs

theorem validate_handled (r : Request) : Handled h (validate h levels r s) := by
  unfold validate
  split
  · exact .of_answer hs
  · split
    · exact .of_answer hs
    · next ha =>
      split
      · exact .of_answer hs
      · next hh =>
        have open_or_attached : s.attached h = true ∨ openToDetached r = true := by
          cases c : s.attached h <;> simp_all
        exact carryOut_handled open_or_attached (by simpa using hh) hp hs

theorem validateFrame_handled (f : Frame) : Handled h (validateFrame h levels f s) := by
  unfold validateFrame
  split
  · exact .of_answer hs
  · split
    · exact .of_answer hs
    · exact validate_handled hp hs _

end Validated

/-! ### Every transaction -/

theorem takeChecked_portInv {h : HostId} {op q : Byte} {act : State → State × Option Reply} {s : State}
    (ha : ∀ s, (∃ op q, (s.port h).phase = .working op q) → Taking h s → Handled h (act s)) (hs : PortInv s) :
    PortInv (takeChecked h op q act s) := by
  unfold takeChecked
  dsimp only
  split
  · exact hs.setPort_same rfl rfl rfl
  · next hp =>
    have ready : Taking h s := hs.taking_of_phase hp
    split
    · exact (ready.setPort _).portInv (by rw [State.setPort_port_self]; exact nofun)
        (by rw [State.setPort_port_self]; exact nofun)
    · have carried := ha _ ⟨op, q, by rw [State.setPort_port_self]⟩
        (ready.setPort { s.port h with phase := .working op q })
      split
      · next e =>
        rw [e] at carried
        exact (carried.answered nofun).holdAnswer
      · next e =>
        rw [e] at carried
        exact carried.waiting rfl

theorem showStatus_portInv {h : HostId} {more : List Byte} {s : State} (hs : PortInv s) :
    PortInv (showStatus h more s) := hs.setPort_same rfl rfl rfl

theorem requestRow_portInv {h : HostId} {q : Byte} {r : Request} {levels : Quad Level} {s : State} (hs : PortInv s) :
    PortInv (requestRow h q r levels s) := by
  unfold requestRow
  split
  · exact takeChecked_portInv (fun _ hp hs => validate_handled hp hs r) (showStatus_portInv hs)
  · exact hs.setPort_same rfl rfl rfl

theorem releaseSend_portInv {h : HostId} {bs : List Byte} {levels : Quad Level} {s : State} (hs : PortInv s) :
    PortInv (releaseSend h bs levels s) := by
  unfold releaseSend
  dsimp only
  split
  · exact hs.setPort_same rfl rfl rfl
  · next hp =>
    split
    · exact hs.setPort_same rfl rfl rfl
    · next f _ =>
      split
      · exact takeChecked_portInv (fun _ hp hs => validateFrame_handled hp hs f) hs
      · exact ((hs.taking_of_phase hp).setPort _).portInv (by rw [State.setPort_port_self]; exact nofun)
          (by rw [State.setPort_port_self]; exact nofun)

theorem transaction_portInv {h : HostId} {first : Byte} {more : List Byte} {levels : Quad Level} {s : State}
    (hs : PortInv s) : PortInv (transaction h first more levels s) := by
  unfold transaction
  split
  · split
    · exact showStatus_portInv hs
    · exact releaseSend_portInv (showStatus_portInv hs)
    · exact showStatus_portInv hs
  · exact hs.setPort_same rfl rfl rfl

/-- A new assertion of HRSTx ends a wait with the session, and returns the port to IDLE (R164). -/
theorem hrstAssert_portInv {h : HostId} {s t : State} (hs : PortInv s) (e : exec (.hrstAssert h) s = .next t) :
    PortInv t := by
  have reset : ∀ u, Taking h u → PortInv (u.setPort h resetPort) := fun u hu =>
    (hu.setPort _).portInv (by rw [State.setPort_port_self]; exact fun _ => rfl)
      (by rw [State.setPort_port_self]; exact nofun)
  cases hl : (s.port h).hrst with
  | true =>
    cases (exec_hrstAssert_repeated hl).symm.trans e
    exact hs
  | false =>
    cases hr : s.running with
    | false =>
      cases (exec_hrstAssert_stopped hl hr).symm.trans e
      exact hs.setPort_same rfl rfl rfl
    | true =>
      cases ha : s.attached h with
      | true =>
        cases (exec_hrstAssert_attached hl hr ha).symm.trans e
        exact reset _ (teardown_taking fun g _ => (portInv_iff s).1 hs g)
      | false =>
        cases (exec_hrstAssert_detached hl hr ha).symm.trans e
        refine reset _ (hs.taking fun c => ?_)
        obtain ⟨-, hatt⟩ := ((portInv_iff s).1 hs h).held c
        cases ha.symm.trans hatt

/-! ### Every step -/

theorem mainDomainCleared_portInv (s : State) : PortInv (mainDomainCleared s) :=
  .of_idle (fun g => by rw [mainDomainCleared_port]; exact ⟨rfl, rfl⟩) rfl

theorem mainReset_portInv (s : State) : PortInv (mainReset s) :=
  (mainDomainCleared_portInv s).of_kept
    (.of_frame (ps := [.count, .sup, .power]) (mainReset_frame s) (by simp) rfl)

theorem resetIfEnded_portInv {s : State} (hs : PortInv s) : PortInv (resetIfEnded s) := by
  unfold resetIfEnded
  split
  · exact mainReset_portInv s
  · exact hs

theorem retainedRise_portInv {s : State} (hs : PortInv s) : PortInv (retainedRise s) := by
  unfold retainedRise
  split
  · exact hs
  · exact (mainDomainCleared_portInv s).of_kept ⟨rfl, rfl, rfl⟩

theorem supply_portInv {s t : State} (hs : PortInv s) (h : SupplyStep s t) : PortInv t := by
  have powered : ∀ x, PortInv { s with power := x } := fun x => hs.of_kept ⟨rfl, rfl, rfl⟩
  cases h with
  | stands => exact hs
  | risen | fallen | resetLow | delayed => exact powered _
  | delayOver | resetHigh => exact resetIfEnded_portInv (powered _)
  | lost => exact (mainDomainCleared_portInv s).of_kept ⟨rfl, rfl, rfl⟩
  | ticked | retainedLost => exact hs.of_kept ⟨rfl, rfl, rfl⟩
  | rising => exact retainedRise_portInv (powered _)
  | coldStart => exact retainedRise_portInv hs

theorem commandsKeep_portInv : CommandsKeep PortInv where
  pending _ _ hs := hs
  showNothing _ _ hs := hs.setPort_same rfl rfl rfl
  transaction _ _ _ _ _ hs := transaction_portInv hs
  requestRow _ _ _ _ _ hs := requestRow_portInv hs
  hrstAssert _ _ _ hs e := hrstAssert_portInv hs e
  hrstRelease _ _ hs := hs.setPort_same rfl rfl rfl
  advance levels s hs := hs.of_kept (advance_waitsKept levels s)
  expireHead _ hs := hs.of_other (expireReached_onlyChanges _ _ _ _) (by simp)
  endPulse p s hs := hs.of_other (endPulse_frame p s) (by simp)
  takeCapture s hs := hs.of_other (takeCapture_frame s) (by simp)
  expireLease _ hs := expireLease_portInv hs
  superviseCycle s hs := hs.of_kept (superviseCycle_waitsKept s)
  sourceEdge w s hs := hs.of_kept (setWatched_waitsKept w _ s)
  loseSource _ _ _ hs := loseSource_portInv hs
  qualify _ _ hs := qualify_portInv hs
  endHoldOff _ _ hs := endHoldOff_portInv hs
  timeOutWait _ hs := timeOutWait_portInv hs
  supply _ _ hs h := supply_portInv hs h

end Sys2Proof.Machine

namespace Sys2Proof.Proofs

open Sys2Proof.Machine

/-- Settles O11: a wait starts and ends with the port of its host, and no other request leaves a port WORKING. -/
theorem stepKeepsPorts : Obligations.StepKeepsPorts := by
  unfold Obligations.StepKeepsPorts
  exact fun _ _ hs h => commandsKeep_portInv.step hs h

end Sys2Proof.Proofs
end

section
/-! SET_TRIM: one trim and its retained copy written, or RANGE (R32, R172). -/

namespace Sys2Proof.Machine

/-- A byte that names no source (R179). -/
theorem sourceOf_eq_none {b : Byte} : sourceOf b = none ↔ b = 0 ∨ 3 < b.toNat := by
  have named : ∀ b : Byte, (∀ x, b ≠ sourceCode x) ↔ b = 0 ∨ 3 < b.toNat := by
    refine fun b => ⟨fun h => ?_, ?_⟩
    · have h1 := h .xo
      have h2 := h .ext
      have h3 := h .rc
      simp only [sourceCode] at h1 h2 h3
      bv_omega
    · rintro h x rfl
      cases x <;> simp [sourceCode] at h
  rw [← named, Option.eq_none_iff_forall_ne_some]
  exact forall_congr' fun x => not_congr sourceOf_eq_some

theorem trimOf_of_range {v : BitVec 32} (hlo : -50000000 ≤ v.toInt) (hhi : v.toInt ≤ 50000000) :
    trimOf v = some v.toInt := if_pos ⟨hlo, hhi⟩

theorem trimOf_out_of_range {v : BitVec 32} (h : v.toInt < -50000000 ∨ 50000000 < v.toInt) : trimOf v = none :=
  if_neg fun ⟨hlo, hhi⟩ => h.elim (fun c => absurd hlo (not_le.2 c)) fun c => absurd hhi (not_le.2 c)

/-- `s` with the trim of `x` and its retained copy written. -/
def trimSet (x : Source) (v : Int) (s : State) : State :=
  { s with
    sup := { s.sup with trims := s.sup.trims.set x v }
    retained := s.retained.map fun r => { r with trims := r.trims.set x v } }

section SetTrim

variable {source : Byte} {trim : BitVec 32} {s : State}

theorem setTrimAt_of_range {x : Source} (hx : source = sourceCode x) (hlo : -50000000 ≤ trim.toInt)
    (hhi : trim.toInt ≤ 50000000) : setTrimAt source trim s =
      (trimSet x trim.toInt s, .okWith (signedBytes 4 (s.sup.trims.get x))) := by
  simp only [setTrimAt, sourceOf_eq_some.2 hx, trimOf_of_range hlo hhi]
  rfl

theorem setTrimAt_out_of_range
    (hout : source = 0 ∨ 3 < source.toNat ∨ trim.toInt < -50000000 ∨ 50000000 < trim.toInt) :
    setTrimAt source trim s = (s, .bare .range) := by
  unfold setTrimAt
  split
  · next x v hx hv =>
    rcases or_assoc.2 hout with hs | ht
    · rw [sourceOf_eq_none.2 hs] at hx
      cases hx
    · rw [trimOf_out_of_range ht] at hv
      cases hv
  · rfl

end SetTrim

end Sys2Proof.Machine

namespace Sys2Proof.Proofs

open Sys2Proof.Machine

/-- Settles O52: by whether the entry and the trim are in range. -/
theorem setTrimWritesEntry : Obligations.SetTrimWritesEntry := by
  unfold Obligations.SetTrimWritesEntry
  intro h q source trim s ht
  obtain ⟨hr, hh⟩ := ht
  refine ⟨fun hout => ?_, fun x hx hlo hhi => ?_⟩
  · obtain ⟨e, hf, ha⟩ := takes_held (r := .setTrim source trim) hr rfl (fun _ => hh)
      (congrArg atOnce (setTrimAt_out_of_range hout)) (.refl [] _) (by simp)
    exact ⟨_, e, hf, ha⟩
  · obtain ⟨e, hf, ha⟩ := takes_held (r := .setTrim source trim) hr rfl (fun _ => hh)
      (congrArg atOnce (setTrimAt_of_range hx hlo hhi)) (parts := [.sup, .retained])
      (by simp [OnlyChanges, trimSet]) (by simp)
    exact ⟨_, e, hf, rfl, fun y => PerSource.get_set _ x _ y, rfl, ha⟩

end Sys2Proof.Proofs
end

section
/-! The outputs as functions of the state: the interrupt lines, the event output pins, the data out lines and the
supply of the XO oscillator (R101, R102, R122, R164, R173, R176). -/

namespace Sys2Proof.Machine

/-- In a queue ordered by class, some notice reaches a threshold exactly when the head does (R88, R101). -/
theorem any_cls_iff_head {threshold : Nat} {queue : List Notice} (hq : queue.Pairwise fun x y => y.cls ≤ x.cls) :
    (∃ n ∈ queue, threshold ≤ n.cls) ↔ ∃ n rest, queue = n :: rest ∧ threshold ≤ n.cls := by
  constructor
  · rintro ⟨n, hn, hle⟩
    cases queue with
    | nil => cases hn
    | cons head rest =>
      refine ⟨head, rest, rfl, ?_⟩
      rcases List.mem_cons.1 hn with rfl | hr
      · exact hle
      · exact hle.trans (List.rel_of_pairwise_cons hq hr)
  · rintro ⟨n, rest, rfl, hle⟩
    exact ⟨n, List.mem_cons_self, hle⟩

theorem irqAsserted_iff {s : State} {h : HostId} (hq : (s.box h).queue.Pairwise fun x y => y.cls ≤ x.cls) :
    irqAsserted s h = true ↔ s.running = true ∧ s.attached h = true ∧
      ∃ n rest, (s.box h).queue = n :: rest ∧ (s.box h).threshold ≤ n.cls := by
  rw [← any_cls_iff_head hq]
  simp [irqAsserted, and_assoc]

/-- While VMAIN is there, an interrupt line is driven one way or the other (R102). -/
theorem irqLine_of_supplied {s : State} (h : HostId) (hv : s.power.supply ≠ .absent) :
    irqLine s h = if irqAsserted s h then .asserted else .deasserted := if_neg hv

/-- While the main domain runs, a pin is driven exactly while it is bound (R122). -/
theorem pinOutput_of_bound {s : State} {p : PinId} {r : PinRecord} (hr : s.running = true) (hp : s.pin p = some r) :
    pinOutput s p = .driven r.level := by
  obtain ⟨hop, -⟩ := (running_iff s).1 hr
  simp [pinOutput, hop, hr, hp]

theorem pinOutput_of_unbound {s : State} {p : PinId} (hr : s.running = true) (hp : s.pin p = none) :
    pinOutput s p = .pulledDown := by
  obtain ⟨hop, -⟩ := (running_iff s).1 hr
  simp [pinOutput, hop, hr, hp]

theorem pinOutput_of_stopped {s : State} (p : PinId) (hr : s.running = false) (hv : s.power.supply ≠ .absent) :
    pinOutput s p = .pulledDown := by simp [pinOutput, hv, hr]

theorem dataOut_of_supplied {s : State} (h : HostId) (selected : Bool) (hv : s.power.supply ≠ .absent) :
    dataOut s h selected = if selected && portOpen s h then .driven else .highImpedance := if_neg hv

end Sys2Proof.Machine

namespace Sys2Proof.Proofs

open Sys2Proof.Machine

/-- Settles O40: output by output; the head of an ordered queue has its greatest class. -/
theorem outputsFollowState : Obligations.OutputsFollowState := by
  unfold Obligations.OutputsFollowState
  intro s hs
  refine ⟨fun h hv => ⟨?_, ?_⟩, fun h ha => if_pos ha, fun p r => pinOutput_of_bound, fun p => pinOutput_of_unbound,
    fun p => pinOutput_of_stopped p, fun p ha => if_pos ha, fun h hr hl => ?_, fun h selected hv hoff => ?_,
    fun h selected ha => if_pos ha, ?_⟩
  · obtain ⟨-, hordered, -⟩ := hs h
    rw [irqLine_of_supplied h hv, ← irqAsserted_iff hordered]
    cases irqAsserted s h <;> simp
  · rw [irqLine_of_supplied h hv]
    cases irqAsserted s h <;> simp
  · obtain ⟨hop, -⟩ := (running_iff s).1 hr
    rw [dataOut_of_supplied h true (by simp [hop])]
    simp [portOpen, hr, hl]
  · rw [dataOut_of_supplied h selected hv]
    rcases hoff with hoff | hoff | hoff <;> simp [portOpen, hoff]
  · simp [xoPowered]

end Sys2Proof.Proofs
end

section
/-! The supervisor's durations: an RC cycle, and an edge of a watched source (R22 to R25, R173). -/

namespace Sys2Proof.Machine

/-- A window or hold-off runs while no loss is detected and it is not over (R22, log 8). -/
theorem runUnlessLost_eq (length amount m elapsed : Nat) : runUnlessLost length amount m elapsed =
    if m < lossLimit ∧ elapsed < length then elapsed + amount else elapsed := by
  rw [ite_and]
  rfl

theorem superviseCycle_watched (s : State) (w : Watched) :
    (superviseCycle s).watched w = (s.watched w).run (trimmedPeriod .rc s.sup.trims.rc) := by
  cases w <;> rfl

theorem exec_rcCycle_of_running {s : State} (hr : s.running = true) : exec .rcCycle s = .next (superviseCycle s) := by
  obtain ⟨hop, -⟩ := (running_iff s).1 hr
  have event : exec .rcCycle s = .next (whileRunning superviseCycle s) := by
    simp [exec, execRcCycle, hop]
  rw [event, whileRunning_of_running hr]

theorem exec_rcCycle_of_powerUp {s : State} {e : Nat} (h : s.power.supply = .powerUp e) :
    exec .rcCycle s =
      .next (withSupply (.powerUp (runDuration powerUpDelay (nominalPeriod .rc) e)) s) := by
  simp [exec, execRcCycle, h, withSupply]

/-- An event of the main domain, while it runs (R173). -/
theorem next_whileRunning {f : State → State} {s : State} (hr : s.running = true) :
    (Host.Outcome.next (whileRunning f s) : Host.Outcome State Fault Refusal) = .next (f s) := by
  rw [whileRunning_of_running hr]

end Sys2Proof.Machine

namespace Sys2Proof.Proofs

open Sys2Proof.Machine

/-- Settles O48: the states of a watched source, one by one. -/
theorem cyclesAndEdges : Obligations.CyclesAndEdges := by
  unfold Obligations.CyclesAndEdges
  refine ⟨fun s hr => ?_, fun e s h => exec_rcCycle_of_powerUp h, fun w s hr => ?_⟩
  · refine ⟨_, exec_rcCycle_of_running hr, superviseCycle_frame s, fun w => ?_, rfl⟩
    rw [superviseCycle_watched]
    cases s.watched w with
    | window e m =>
      show SourceState.window (runUnlessLost _ _ _ _) _ = _
      rw [runUnlessLost_eq]
      rfl
    | qualified d m =>
      cases d with
      | running e =>
        show SourceState.qualified (.running (runUnlessLost _ _ _ _)) _ = _
        rw [runUnlessLost_eq]
        rfl
      | elapsed => rfl
    | _ => rfl
  · refine ⟨_, next_whileRunning hr, setWatched_frame w _ s, ?_, State.setWatched_sup w _ s, fun v hv => ?_⟩
    · rw [State.setWatched_watched_self]
      cases s.watched w <;> rfl
    · rw [State.setWatched_watched, if_neg hv]

end Sys2Proof.Proofs
end

section
/-! LEASE_EXPIRY: the holder loses the authority, which is handed over, and its wait ends (R36, R107, R111, R113). -/

namespace Sys2Proof.Machine

/-- `s` with AUTH_LOST at the host of the holding `x` (R113). -/
def leaseLost (x : Holding) (s : State) : State := post x.host (arbiterNotice s .authLost none (some .expired)) s

section Expiry

variable {x : Holding} {s : State}

theorem expireLease_of_free (hx : s.auth.holding = none) : expireLease s = s := by rw [expireLease, hx]

theorem expireLease_of_running (hx : s.auth.holding = some x) (h : x.elapsed < leaseLength x.lease) :
    expireLease s = s := by
  have hn : leaseOver x = false := decide_eq_false (not_le.2 h)
  simp [expireLease, hx, hn]

theorem expireLease_of_over (hx : s.auth.holding = some x) (h : leaseLength x.lease ≤ x.elapsed) :
    expireLease s = handOver x.host false (leaseLost x s) := by
  have ho : leaseOver x = true := decide_eq_true h
  simp [expireLease, hx, ho, leaseLost]

end Expiry

/-- The end of a wait is no matter to what a hand-over grants. -/
theorem handOver_handedOver (old : HostId) (torn : Bool) (s : State) :
    HandedOver s.auth.waiting (fun _ => False) s (handOver old torn s) := by
  obtain ⟨hnil, hcons⟩ := grantNext_handedOver s
  obtain ⟨-, -, -, hnotices, hauth, -⟩ := endWaitIf_frame ((grantNext s).sup.wait.any fun w => w.host = old)
    (if torn then none else some (selectedReply .revoked (grantNext s))) (grantNext s)
  have auth : (handOver old torn s).auth = (grantNext s).auth := hauth (by simp)
  have box : ∀ g, (handOver old torn s).box g = (grantNext s).box g := fun g =>
    congrArg (PerHost.get · g) (hnotices (by simp))
  refine ⟨fun e => ?_, fun w rest e => ?_⟩
  · obtain ⟨ha, hb⟩ := hnil e
    exact ⟨auth.trans ha, fun g hg => (box g).trans (hb g hg)⟩
  · obtain ⟨ha, hb⟩ := hcons w rest e
    exact ⟨auth.trans ha, fun g hg => (box g).trans (hb g hg)⟩

/-- A hand-over after a post to host `h`, as the other hosts see it. -/
theorem HandedOver.of_post {waiting : List Waiter} {h : HostId} {n : Notice} {s t : State}
    (ht : HandedOver waiting (fun _ => False) (post h n s) t) : HandedOver waiting (· = h) s t := by
  have granted : ∀ lease, grantedNotice (post h n s) lease = grantedNotice s lease := fun lease => by
    simp [grantedNotice, conditionFlags, holdover]
  have other : ∀ g, g ≠ h → (post h n s).box g = s.box g := fun g hg => by rw [post_box, if_neg fun c => hg c.1]
  obtain ⟨hnil, hcons⟩ := ht
  refine ⟨fun e => ?_, fun w rest e => ?_⟩
  · obtain ⟨ha, hb⟩ := hnil e
    exact ⟨ha, fun g hg => (hb g id).trans (other g hg)⟩
  · obtain ⟨ha, hb⟩ := hcons w rest e
    refine ⟨ha, fun g hg => ?_⟩
    rw [hb g id, post_attached, granted, other g hg]

/-- A hand-over grants to a waiter, so nothing is posted to a host that does not wait. -/
theorem HandedOver.box_of_not_waiting {waiting : List Waiter} {s t : State}
    (ht : HandedOver waiting (fun _ => False) s t) {g : HostId} (hg : ∀ w ∈ waiting, w.host ≠ g) :
    t.box g = s.box g := by
  obtain ⟨hnil, hcons⟩ := ht
  cases waiting with
  | nil =>
    obtain ⟨-, hb⟩ := hnil rfl
    exact hb g id
  | cons w rest =>
    obtain ⟨-, hb⟩ := hcons w rest rfl
    rw [hb g id, if_neg fun c => hg w List.mem_cons_self c.1.symm]

/-- The old holder keeps AUTH_LOST: it does not wait for the authority that it held (R106, R113). -/
theorem handOver_leaseLost_box {x : Holding} {s : State} (hs : AuthInv s) (hx : s.auth.holding = some x) :
    (handOver x.host false (leaseLost x s)).box x.host =
      (s.box x.host).post (arbiterNotice s .authLost none (some .expired)) := by
  obtain ⟨hheld, -, -, hwaiters, -⟩ := hs
  obtain ⟨hattached, -⟩ := hheld x hx
  have apart : ∀ w ∈ s.auth.waiting, w.host ≠ x.host := fun w hw e => by
    obtain ⟨-, hne, -⟩ := hwaiters w hw
    exact hne (e ▸ holder_of_holding hx)
  have handed := handOver_handedOver x.host false (leaseLost x s)
  rw [handed.box_of_not_waiting (by rw [leaseLost, post_auth]; exact apart), leaseLost, post_box,
    if_pos ⟨rfl, hattached⟩]

theorem leaseLost_frame (x : Holding) (s : State) : OnlyChanges [.notices] s (leaseLost x s) := post_frame _ _ _

/-- A lease that expires while its holder waits for a source. -/
theorem handOver_leaseLost_waiting {x : Holding} {w : Wait} {op q : Byte} {s : State} (hw : s.sup.wait = some w)
    (e : w.host = x.host) (hp : (s.port x.host).phase = .working op q) :
    OnlyChanges [.auth, .notices, .sup, .ports] s (handOver x.host false (leaseLost x s)) ∧
      (handOver x.host false (leaseLost x s)).sup = { s.sup with wait := none } ∧
      (∀ g, g ≠ x.host → (handOver x.host false (leaseLost x s)).port g = s.port g) ∧
      (handOver x.host false (leaseLost x s)).port x.host = { s.port x.host with
        phase := .answered ⟨op, q, .revoked, [sourceCode s.sup.selected]⟩
        record := some ⟨op, q, ⟨op, q, .revoked, [sourceCode s.sup.selected]⟩⟩ } := by
  have hf : OnlyChanges [.auth, .notices] s (grantNext (leaseLost x s)) :=
    ((leaseLost_frame x s).mono (by simp)).trans (grantNext_frame _)
  have hlost : (leaseLost x s).sup.wait = some w := by rw [leaseLost, post_sup, hw]
  have ports := hf.ports_eq (by simp)
  rw [handOver_of_wait hlost e]
  generalize grantNext (leaseLost x s) = u at hf ports ⊢
  have port : ∀ g, u.port g = s.port g := fun g => by rw [State.port, ports, State.port]
  have sup : u.sup = s.sup := by
    obtain ⟨-, hsup, -⟩ := hf
    exact hsup (by simp)
  obtain ⟨hend, hsup⟩ := endWait_frame (some (selectedReply .revoked u)) u
  obtain ⟨others, own⟩ := endWait_ports (selectedReply .revoked u) (sup ▸ hw) (by rw [port, e]; exact hp)
  rw [e] at others own
  refine ⟨(hf.mono (by simp)).trans (hend.mono (by simp)), by rw [hsup, sup],
    fun g hg => (others g hg).trans (port g), ?_⟩
  rw [own, port, selectedReply, sup]

end Sys2Proof.Machine

namespace Sys2Proof.Proofs

open Sys2Proof.Machine

/-- Settles O47: by whether the lease has run out, and whether its holder waits for a source. -/
theorem leaseExpiryHandsOver : Obligations.LeaseExpiryHandsOver := by
  unfold Obligations.LeaseExpiryHandsOver
  intro x s hr hs
  have event : exec .leaseExpiry s = .next (expireLease s) := next_whileRunning hr
  refine ⟨fun hx => by rw [event, expireLease_of_free hx],
    fun hx => ⟨fun h => by rw [event, expireLease_of_running hx h], fun h => ?_⟩⟩
  rw [event, expireLease_of_over hx h]
  refine ⟨_, rfl, ?_, handOver_leaseLost_box hs hx, fun hw => ?_, fun w op q hw e hp =>
    handOver_leaseLost_waiting hw e hp⟩
  · have handed := handOver_handedOver x.host false (leaseLost x s)
    rw [leaseLost, post_auth] at handed
    exact handed.of_post
  · rw [handOver_of_no_wait (by rw [leaseLost, post_sup]; exact hw)]
    exact ((leaseLost_frame x s).mono (by simp)).trans (grantNext_frame _)

end Sys2Proof.Proofs
end

section
/-! A watched source that qualifies, whose hold-off ends, or whose wait runs out (R25, R29, R30, R35, R39). -/

namespace Sys2Proof.Machine

theorem State.watched_congr {s t : State} (hxo : t.sup.xo = s.sup.xo) (hext : t.sup.ext = s.sup.ext) (v : Watched) :
    t.watched v = s.watched v := by
  cases v <;> assumption

/-- The SOURCE notice of a selection of `x` (R31). -/
theorem sourceNotice_switchTo (x : Source) (cause : Cause) (stamp : Nat) (s : State) :
    sourceNotice (switchTo x s) cause stamp = systemNotice .source stamp none (some (.source x cause))
      ⟨false, s.sup.list.head? ≠ some x, s.count.setState = .retained, false⟩ := rfl

theorem standsEarlier_ne {l : List Source} {x y : Source} (h : standsEarlier l x y = true) : y ≠ x := by
  rintro rfl
  simp [standsEarlier] at h

/-! ### A watched source written and selected -/

section Marked

variable (w : Watched) (x : SourceState) (s : State)

/-- The supervisor once the source `w` is in state `x` and selected. -/
theorem switchTo_setWatched_sup : (switchTo w.source (s.setWatched w x)).sup = { s.sup with
    xo := (s.setWatched w x).sup.xo
    ext := (s.setWatched w x).sup.ext
    selected := w.source
    leaving := if driver s = w.source then none else some (driver s)
    startUp := false } := by
  cases w <;> rfl

/-- A selection is no matter to what the watched sources are. -/
theorem selectWithNotice_watched (y : Source) (cause : Cause) (stamp : Nat) (v : Watched) :
    (selectWithNotice y cause stamp s).watched v = s.watched v := by
  unfold selectWithNotice
  split
  · rfl
  · exact State.watched_congr (by rw [postAll_sup]; rfl) (by rw [postAll_sup]; rfl) v

theorem endWait_watched (r : Option Reply) (v : Watched) : (endWait r s).watched v = s.watched v := by
  obtain ⟨-, hsup⟩ := endWait_frame r s
  exact State.watched_congr (by rw [hsup]) (by rw [hsup]) v

/-- The source `w` put in state `x` and selected, with its notice to every attached host (R27, R31). -/
theorem selectWithNotice_setWatched (cause : Cause) (hne : s.sup.selected ≠ w.source) :
    (selectWithNotice w.source cause s.count.time (s.setWatched w x)).sup =
        (switchTo w.source (s.setWatched w x)).sup ∧
      OnlyChanges [.sup, .notices] s (selectWithNotice w.source cause s.count.time (s.setWatched w x)) ∧
      PostedAll (systemNotice .source s.count.time none (some (.source w.source cause))
        ⟨false, s.sup.list.head? ≠ some w.source, s.count.setState = .retained, false⟩) s
        (selectWithNotice w.source cause s.count.time (s.setWatched w x)) := by
  have hne' : (s.setWatched w x).sup.selected ≠ w.source := by rwa [State.setWatched_selected]
  obtain ⟨hsup, hf, hpost⟩ :=
    selectWithNotice_of_ne w.source (s.setWatched w x) (cause := cause) (stamp := s.count.time) hne'
  rw [sourceNotice_switchTo, State.setWatched_list] at hpost
  have hmark := setWatched_frame w x s
  obtain ⟨hcount, -, -, hnotices, -, -, -, hports, -⟩ := hmark
  refine ⟨hsup, ((setWatched_frame w x s).mono (by simp)).trans hf, fun g => ?_⟩
  rw [hpost g, hcount (by simp), State.attached, State.port, hports (by simp), State.box, hnotices (by simp)]
  rfl

end Marked

/-! ### The events by their cases -/

section Events

variable {w : Watched} {e m : Nat} {s : State}

theorem endHoldOff_of_early (h : ∀ e m, s.watched w = .qualified (.running e) m → e < holdOffLength) :
    endHoldOff w s = s := by
  unfold endHoldOff
  split
  · next e m hw => rw [if_neg (not_le.2 (h e m hw))]
  · rfl

theorem endHoldOff_of_over (hw : s.watched w = .qualified (.running e) m) (he : holdOffLength ≤ e) :
    endHoldOff w s = if standsEarlier s.sup.list w.source s.sup.selected
      then selectWithNotice w.source .revert s.count.time (s.setWatched w (.qualified .elapsed m))
      else s.setWatched w (.qualified .elapsed m) := by
  obtain ⟨hcount, -⟩ := setWatched_frame w (.qualified .elapsed m) s
  simp only [endHoldOff, hw, if_pos he, hcount (by simp)]

theorem timeOutWait_of_early (h : ∀ x, s.sup.wait = some x → x.elapsed < waitLength) : timeOutWait s = s := by
  unfold timeOutWait
  split
  · next x hx => rw [if_neg (not_le.2 (h x hx))]
  · rfl

theorem timeOutWait_of_over {x : Wait} (hx : s.sup.wait = some x) (he : waitLength ≤ x.elapsed) :
    timeOutWait s = endWait (some (fallbackReply s)) s := by
  simp only [timeOutWait, hx, if_pos he]

/-- The answer FALLBACK names the state of the head (R35). -/
theorem fallbackReply_of_head {head : Source} (h : s.sup.list.head? = some head) :
    fallbackReply s = ⟨.fallback, [sourceCode s.sup.selected, sourceStateCode (s.sourceState head)]⟩ := by
  rw [fallbackReply, h, Option.map_some, Option.getD_some]

theorem qualify_of_early (h : ∀ e m, s.watched w = .window e m → e < windowLength) : qualify w s = s := by
  unfold qualify
  split
  · next e m hw => rw [if_neg (not_le.2 (h e m hw))]
  · rfl

/-- The head of a running wait qualifies (R35). -/
theorem qualify_of_wait (hw : s.watched w = .window e m) (he : windowLength ≤ e) (hwait : s.sup.wait ≠ none)
    (hhead : s.sup.list.head? = some w.source) :
    ∃ t, t = selectWithNotice w.source .command s.count.time (s.setWatched w (.qualified (.running 0) m)) ∧
      qualify w s = endWait (some (selectedReply .ok t)) t := by
  obtain ⟨hcount, -⟩ := setWatched_frame w (.qualified (.running 0) m) s
  refine ⟨_, rfl, ?_⟩
  simp only [qualify, hw, if_pos he, hcount (by simp), if_pos (And.intro (Option.isSome_iff_ne_none.2 hwait) hhead)]

/-- A source that no wait is for qualifies: selected in the start-up phase when it stands earlier (R39). -/
theorem qualify_of_no_wait (hw : s.watched w = .window e m) (he : windowLength ≤ e)
    (hwait : s.sup.wait = none ∨ s.sup.list.head? ≠ some w.source) :
    qualify w s = if s.sup.startUp = true ∧ standsEarlier s.sup.list w.source s.sup.selected = true
      then switchTo w.source (s.setWatched w (.qualified (.running 0) m))
      else s.setWatched w (.qualified (.running 0) m) := by
  have none : ¬(s.sup.wait.isSome = true ∧ s.sup.list.head? = some w.source) := fun ⟨hi, hh⟩ =>
    hwait.elim (fun c => by rw [c] at hi; cases hi) (fun c => c hh)
  simp only [qualify, hw, if_pos he, if_neg none]

theorem qualify_watched (hw : s.watched w = .window e m) (he : windowLength ≤ e) (v : Watched) :
    (qualify w s).watched v = if v = w then .qualified (.running 0) m else s.watched v := by
  rw [← State.setWatched_watched w (.qualified (.running 0) m) s v]
  by_cases hwait : s.sup.wait = none ∨ s.sup.list.head? ≠ some w.source
  · rw [qualify_of_no_wait hw he hwait]
    split
    · cases v <;> rfl
    · rfl
  · obtain ⟨hrun, hhead⟩ := not_or.1 hwait
    obtain ⟨t, rfl, ht⟩ := qualify_of_wait hw he hrun (not_not.1 hhead)
    rw [ht, endWait_watched, selectWithNotice_watched]

theorem qualify_no_wait_sup (hw : s.watched w = .window e m) (he : windowLength ≤ e)
    (hwait : s.sup.wait = none ∨ s.sup.list.head? ≠ some w.source) : OnlyChanges [.sup] s (qualify w s) ∧
      (qualify w s).sup = if s.sup.startUp = true ∧ standsEarlier s.sup.list w.source s.sup.selected = true
        then { s.sup with
          xo := (qualify w s).sup.xo, ext := (qualify w s).sup.ext, selected := w.source
          leaving := if driver s = w.source then none else some (driver s), startUp := false }
        else { s.sup with xo := (qualify w s).sup.xo, ext := (qualify w s).sup.ext } := by
  have marked := setWatched_frame w (.qualified (.running 0) m) s
  rw [qualify_of_no_wait hw he hwait]
  split
  · exact ⟨marked.trans (switchTo_frame _ _), switchTo_setWatched_sup _ _ _⟩
  · exact ⟨marked, State.setWatched_sup _ _ _⟩

/-- The head of a running wait qualifies and is not yet selected: its selection answers the wait (R35). -/
theorem qualify_wait_answered {x : Wait} {op q : Byte} (hw : s.watched w = .window e m) (he : windowLength ≤ e)
    (hx : s.sup.wait = some x) (hhead : s.sup.list.head? = some w.source) (hne : s.sup.selected ≠ w.source)
    (hp : (s.port x.host).phase = .working op q) :
    OnlyChanges [.sup, .ports, .notices] s (qualify w s) ∧
      (qualify w s).sup = { s.sup with
        xo := (qualify w s).sup.xo, ext := (qualify w s).sup.ext, selected := w.source
        leaving := if driver s = w.source then none else some (driver s), startUp := false, wait := none } ∧
      PostedAll (systemNotice .source s.count.time none (some (.source w.source .command))
        ⟨false, false, s.count.setState = .retained, false⟩) s (qualify w s) ∧
      (∀ g, g ≠ x.host → (qualify w s).port g = s.port g) ∧
      (qualify w s).port x.host = { s.port x.host with
        phase := .answered ⟨op, q, .ok, [sourceCode w.source]⟩
        record := some ⟨op, q, ⟨op, q, .ok, [sourceCode w.source]⟩⟩ } := by
  obtain ⟨t, ht, hq⟩ := qualify_of_wait hw he (by simp [hx]) hhead
  obtain ⟨hsup, hf, hpost⟩ := selectWithNotice_setWatched w (.qualified (.running 0) m) s .command hne
  rw [← ht] at hsup hf hpost
  rw [switchTo_setWatched_sup] at hsup
  have port : ∀ g, t.port g = s.port g := fun g => by rw [State.port, hf.ports_eq (by simp), State.port]
  obtain ⟨hend, hended⟩ := endWait_frame (some (selectedReply .ok t)) t
  obtain ⟨others, own⟩ := endWait_ports (selectedReply .ok t) (by rw [hsup, hx]) (by rw [port]; exact hp)
  rw [hq]
  refine ⟨(hf.mono (by simp)).trans (hend.mono (by simp)), ?_, fun g => ?_,
    fun g hg => (others g hg).trans (port g), ?_⟩
  · rw [hended, hsup]
  · obtain ⟨-, -, -, hnotices, -⟩ := hend
    rw [State.box, hnotices (by simp), ← State.box, hpost g]
    simp [hhead]
  · rw [own, port, selectedReply, hsup]

end Events

end Sys2Proof.Machine

namespace Sys2Proof.Proofs

open Sys2Proof.Machine

/-- Settles O51: by whether the hold-off and the wait have run, and whether the source stands earlier. -/
theorem holdOffEndAndWaitTimeout : Obligations.HoldOffEndAndWaitTimeout := by
  unfold Obligations.HoldOffEndAndWaitTimeout
  refine ⟨fun w s hr => ?_, fun s hr => ?_⟩
  · have event : exec (.holdOffEnd w) s = .next (endHoldOff w s) := next_whileRunning hr
    refine ⟨fun h => by rw [event, endHoldOff_of_early h], fun e m hw he => ?_⟩
    rw [event, endHoldOff_of_over hw he]
    cases hearlier : standsEarlier s.sup.list w.source s.sup.selected with
    | false =>
      refine ⟨_, rfl, State.setWatched_watched_self w _ s, fun v hv => ?_, fun _ => ⟨setWatched_frame w _ s, ?_⟩,
        nofun⟩
      · rw [if_neg Bool.false_ne_true, State.setWatched_watched, if_neg hv]
      · exact State.setWatched_sup w _ s
    | true =>
      obtain ⟨hsup, hf, hpost⟩ :=
        selectWithNotice_setWatched w (.qualified .elapsed m) s .revert (standsEarlier_ne hearlier)
      rw [if_pos rfl]
      refine ⟨_, rfl, ?_, fun v hv => ?_, nofun, fun _ => ⟨hf, ?_, hpost⟩⟩
      · rw [selectWithNotice_watched, State.setWatched_watched_self]
      · rw [selectWithNotice_watched, State.setWatched_watched, if_neg hv]
      · rw [hsup, switchTo_setWatched_sup]
        rfl
  · have event : exec .waitTimeout s = .next (timeOutWait s) := next_whileRunning hr
    refine ⟨fun h => by rw [event, timeOutWait_of_early h], fun x op q head hx he hp hhead => ?_⟩
    obtain ⟨hf, hsup⟩ := endWait_frame (some (fallbackReply s)) s
    obtain ⟨others, own⟩ := endWait_ports (fallbackReply s) hx hp
    rw [event, timeOutWait_of_over hx he]
    refine ⟨_, rfl, hf, hsup, others, ?_⟩
    rw [own, fallbackReply_of_head hhead]

/-- Settles O50: by whether the window has run, and whether a wait or the start-up phase selects the source. -/
theorem qualificationSelects : Obligations.QualificationSelects := by
  unfold Obligations.QualificationSelects
  intro w s hr
  have event : exec (.qualification w) s = .next (qualify w s) := next_whileRunning hr
  refine ⟨fun h => by rw [event, qualify_of_early h], fun e m hw he => ?_⟩
  rw [event]
  by_cases hwait : s.sup.wait = none ∨ s.sup.list.head? ≠ some w.source
  · obtain ⟨hf, hsup⟩ := qualify_no_wait_sup hw he hwait
    refine ⟨_, rfl, ?_, fun v hv => ?_, fun x op q hx hhead => ?_, fun _ => ⟨hf, hsup⟩⟩
    · rw [qualify_watched hw he, if_pos rfl]
    · rw [qualify_watched hw he, if_neg hv]
    · exact (hwait.elim (fun c => by rw [c] at hx; cases hx) fun c => c hhead).elim
  · refine ⟨_, rfl, ?_, fun v hv => ?_, fun x op q hx hhead hne hp => qualify_wait_answered hw he hx hhead hne hp,
      fun c => absurd c hwait⟩
    · rw [qualify_watched hw he, if_pos rfl]
    · rw [qualify_watched hw he, if_neg hv]

end Sys2Proof.Proofs
end

section
/-! A gap bridge beside the supervisor, the ports and the retained settings, none of which it looks at (R5, R30). -/

namespace Sys2Proof.Machine

/-- `s` with another supervisor, other ports, and what is retained changed by `f`. -/
def State.dressed (x : Supervisor) (p : PerHost Port) (f : Retained → Retained) (s : State) : State :=
  { s with sup := x, ports := p, retained := s.retained.map f }

/-- `f` leaves the retained count alone. -/
def LeavesCount (f : Retained → Retained) : Prop :=
  ∀ r time residue, f { r with time := time, residue := residue } = { f r with time := time, residue := residue }

section Dressed

variable (x : Supervisor) (p : PerHost Port) {f : Retained → Retained} (hf : LeavesCount f) (s : State)

include hf in
theorem handOff_dressed : handOff (s.dressed x p f) = (handOff s).dressed x p f := by
  have maps : (s.retained.map f).map (fun r => { r with time := s.count.time, residue := s.count.residue }) =
      (s.retained.map fun r => { r with time := s.count.time, residue := s.count.residue }).map f := by
    rw [Option.map_map, Option.map_map]
    exact congrArg (Option.map · s.retained) (funext fun r => (hf r _ _).symm)
  rw [handOff, State.dressed, State.dressed, handOff, maps]

include hf in
theorem reachCount_dressed (total : Nat) : reachCount total (s.dressed x p f) = (reachCount total s).dressed x p f := by
  unfold reachCount
  dsimp only
  rw [apply_ite (State.dressed x p f), ← handOff_dressed x p hf]
  rfl

theorem holdCount_dressed (total : Nat) : holdCount total (s.dressed x p f) = (holdCount total s).dressed x p f := rfl

theorem runLease_dressed (m : Nat) : runLease m (s.dressed x p f) = (runLease m s).dressed x p f := rfl

theorem sampleInputs_dressed (m : Nat) (levels : Quad Level) :
    sampleInputs m levels (s.dressed x p f) = (sampleInputs m levels s).dressed x p f := rfl

include hf in
theorem takeAdvance_dressed (m : Nat) (levels : Quad Level) :
    takeAdvance m levels (s.dressed x p f) = (takeAdvance m levels s).dressed x p f := by
  have moved : moveCount m (s.dressed x p f) = (moveCount m s).dressed x p f := by
    rw [moveCount, moveCount, apply_ite (State.dressed x p f), ← reachCount_dressed x p hf, ← holdCount_dressed]
    rfl
  rw [takeAdvance, takeAdvance, moved, runLease_dressed, sampleInputs_dressed]

end Dressed

end Sys2Proof.Machine
end

section
/-! SOURCE_LOSS: the loss of a watched source, with the failover from the selected one and the end of a wait for the
head (R24, R28, R35). -/

namespace Sys2Proof.Machine

theorem State.setWatched_dressed (w : Watched) (x : SourceState) (s : State) :
    s.setWatched w x = s.dressed (s.setWatched w x).sup s.ports id := by
  cases w <;> simp [State.setWatched, State.dressed]

theorem takeAdvance_setState (m : Nat) (levels : Quad Level) (s : State) :
    (takeAdvance m levels s).count.setState = s.count.setState := by
  rcases Nat.lt_or_ge (fineCount s + m) countLimit with h | h
  · obtain ⟨hcount, -⟩ := takeAdvance_of_lt (levels := levels) h
    rw [hcount]
  · obtain ⟨hcount, -⟩ := takeAdvance_of_le (levels := levels) h
    rw [hcount]

/-- What a bridge works on, seen through what does not work on it. -/
theorem OnlyChanges.of_dressed {x : Supervisor} {p : PerHost Port} {f : Retained → Retained} {ps : List Part}
    {u t : State} (ht : OnlyChanges ps (u.dressed x p f) t) (hps : [.count, .pool, .auth, .pins, .cap].Disjoint ps) :
    t.count = u.count ∧ t.pool = u.pool ∧ t.auth = u.auth ∧ t.pins = u.pins ∧ t.cap = u.cap := by
  obtain ⟨hcount, -, hpool, -, hauth, hpins, hcap, -⟩ := ht
  exact ⟨hcount (hps (by simp)), hpool (hps (by simp)), hauth (hps (by simp)), hpins (hps (by simp)),
    hcap (hps (by simp))⟩

/-- A bridge, and then nothing that it changes. -/
theorem Bridged.of_dressed {m : Nat} {levels : Quad Level} {x : Supervisor} {p : PerHost Port}
    {f : Retained → Retained} {ps : List Part} {s t : State} (hf : LeavesCount f)
    (ht : OnlyChanges ps (takeAdvance m levels (s.dressed x p f)) t)
    (hps : [.count, .pool, .auth, .pins, .cap].Disjoint ps) : Bridged m levels s t := by
  rw [takeAdvance_dressed x p hf] at ht
  exact ht.of_dressed hps

/-! ### A failover (R28) -/

theorem lossPosted_frame (s : State) : OnlyChanges [.sup, .notices] s (lossPosted s) :=
  OnlyChanges.trans (t := failedOver s) ((withSup_frame _ s).mono (by simp)) ((postAll_frame _ _).mono (by simp))

theorem lossPosted_postedAll (s : State) : PostedAll (systemNotice .source s.count.time none
    (some (.source (firstQualified s) .loss))
    ⟨false, s.sup.list.head? ≠ some (firstQualified s), s.count.setState = .retained, false⟩) s (lossPosted s) :=
  postAll_postedAll _ (failedOver s)

/-- The source that a failover from `w` selects (R28). -/
def failoverTo (w : Watched) (s : State) : Source :=
  ((effectiveList s.sup.list).find? fun x => x ≠ w.source && (s.sourceState x).isQualified).getD .rc

theorem firstQualified_setWatched_failed (w : Watched) (s : State) :
    firstQualified (s.setWatched w .failed) = failoverTo w s := by
  rw [failoverTo, firstQualified, State.setWatched_list]
  refine congrArg (Option.getD · .rc) (congrArg (List.find? · (effectiveList s.sup.list)) (funext fun x => ?_))
  rw [State.setWatched_sourceState]
  split
  · next e => simp [e, SourceState.isQualified]
  · next e => simp [e]

theorem lossPosted_sup (s : State) : (lossPosted s).sup =
    { s.sup with selected := firstQualified s, leaving := none, startUp := false } := postAll_sup _ _

theorem firstQualified_congr {s t : State} (h : t.sup = s.sup) : firstQualified t = firstQualified s := by
  have states : ∀ x, t.sourceState x = s.sourceState x := State.sourceState_congr (by rw [h]) (by rw [h])
  simp only [firstQualified, h, states]

/-- `v`, where a bridge of `s` has led, with `w` FAILED and the failover made. -/
def failedAfter (w : Watched) (s v : State) : State :=
  lossPosted (v.dressed (s.setWatched w .failed).sup s.ports id)

section FailedAfter

variable (w : Watched) (s v : State)

theorem failedAfter_frame :
    OnlyChanges [.sup, .notices] (v.dressed (s.setWatched w .failed).sup s.ports id) (failedAfter w s v) :=
  lossPosted_frame _

theorem firstQualified_dressed_failed :
    firstQualified (v.dressed (s.setWatched w .failed).sup s.ports id) = failoverTo w s :=
  (firstQualified_congr (s := s.setWatched w .failed) rfl).trans (firstQualified_setWatched_failed w s)

/-- What the failover leaves as the bridge left it, and the ports as they were. -/
theorem failedAfter_kept : (failedAfter w s v).retained = v.retained ∧ (failedAfter w s v).ports = s.ports ∧
    (failedAfter w s v).power = v.power ∧ (failedAfter w s v).pending = v.pending := by
  obtain ⟨-, -, -, -, -, -, -, hports, hretained, hpower, hpending⟩ := failedAfter_frame w s v
  exact ⟨(hretained (by simp)).trans (Option.map_id_apply), hports (by simp), hpower (by simp), hpending⟩

theorem failedAfter_sup : (failedAfter w s v).sup = { s.sup with
    xo := (failedAfter w s v).sup.xo, ext := (failedAfter w s v).sup.ext
    selected := failoverTo w s, leaving := none, startUp := false } := by
  rw [failedAfter, lossPosted_sup, firstQualified_dressed_failed]
  cases w <;> rfl

theorem failedAfter_watched (u : Watched) :
    (failedAfter w s v).watched u = if u = w then .failed else s.watched u := by
  rw [← State.setWatched_watched]
  exact State.watched_congr (by rw [failedAfter, lossPosted_sup]; rfl) (by rw [failedAfter, lossPosted_sup]; rfl) u

/-- The notice of the failover, at every host that was attached before the bridge (R31). -/
theorem failedAfter_postedAll (hnotices : v.notices = s.notices) (hset : v.count.setState = s.count.setState) :
    PostedAll (systemNotice .source (failedAfter w s v).count.time none (some (.source (failoverTo w s) .loss))
      ⟨false, s.sup.list.head? ≠ some (failoverTo w s), s.count.setState = .retained, false⟩) s
      (failedAfter w s v) := by
  have posted := lossPosted_postedAll (v.dressed (s.setWatched w .failed).sup s.ports id)
  obtain ⟨hcount, -⟩ := failedAfter_frame w s v
  have list : (v.dressed (s.setWatched w .failed).sup s.ports id).sup.list = s.sup.list := s.setWatched_list w .failed
  have set : (v.dressed (s.setWatched w .failed).sup s.ports id).count.setState = s.count.setState := hset
  have time : (v.dressed (s.setWatched w .failed).sup s.ports id).count = (failedAfter w s v).count :=
    (hcount (by simp)).symm
  rw [firstQualified_dressed_failed, list, set, time] at posted
  intro g
  have box : (v.dressed (s.setWatched w .failed).sup s.ports id).box g = s.box g :=
    congrArg (PerHost.get · g) hnotices
  exact (posted g).trans (by rw [box]; rfl)

end FailedAfter

theorem takeAdvance_setWatched (m : Nat) (levels : Quad Level) (w : Watched) (x : SourceState) (s : State) :
    takeAdvance m levels (s.setWatched w x) =
      (takeAdvance m levels s).dressed (s.setWatched w x).sup s.ports id := by
  conv_lhs => rw [State.setWatched_dressed]
  exact takeAdvance_dressed _ _ (fun _ _ _ => rfl) s m levels

theorem failover_setWatched (m : Nat) (levels : Quad Level) (w : Watched) (s : State) :
    failover m levels (s.setWatched w .failed) = failedAfter w s (takeAdvance m levels s) := by
  rw [failover_eq, takeAdvance_setWatched, failedAfter]

/-! ### The event by its cases (R24, R35) -/

theorem SourceState.lossDue_eq_true {x : SourceState} :
    x.lossDue = true ↔ ∃ m, x.sinceEdge = some m ∧ lossLimit ≤ m := by
  unfold SourceState.lossDue
  cases x.sinceEdge <;> simp

/-- A source that is not selected has FAILED: it is awaited no more when it was being left (log 9). -/
def lostAside (w : Watched) (s : State) : State :=
  { s with sup := { (s.setWatched w .failed).sup with
      leaving := if s.sup.leaving = some w.source then none else s.sup.leaving } }

section Loss

variable {w : Watched} {levels : Quad Level} {m : Nat} {s : State}

theorem loseSource_of_early (h : ∀ m, (s.watched w).sinceEdge = some m → m < lossLimit) :
    loseSource w levels s = s := by
  refine if_neg fun c => ?_
  obtain ⟨m, hm, hle⟩ := SourceState.lossDue_eq_true.1 c
  exact absurd (h m hm) (not_lt.2 hle)

theorem endWaitIf_of_none {p : Prop} [Decidable p] {r : Option Reply} {u : State} (h : u.sup.wait = none ∨ ¬p) :
    (if p then endWait r u else u) = u := by
  split
  · next hp => exact endWait_of_none r u (h.resolve_right (not_not.2 hp))
  · rfl

section Due

variable (hm : (s.watched w).sinceEdge = some m) (hle : lossLimit ≤ m)

include hm hle

/-- The selected source is lost, and no wait ends. -/
theorem loseSource_of_selected (hsel : s.sup.selected = w.source)
    (hwait : s.sup.wait = none ∨ s.sup.list.head? ≠ some w.source) :
    loseSource w levels s = failedAfter w s (takeAdvance m levels s) := by
  have due : (s.watched w).lossDue = true := SourceState.lossDue_eq_true.2 ⟨m, hm, hle⟩
  rw [loseSource, if_pos due]
  dsimp only
  rw [if_pos hsel, hm, Option.getD_some, failover_setWatched]
  refine endWaitIf_of_none ?_
  rw [failedAfter_sup]
  exact hwait

theorem loseSource_of_other (hsel : s.sup.selected ≠ w.source) : loseSource w levels s =
    if s.sup.list.head? = some w.source
      then endWait (some (fallbackReply (lostAside w s))) (lostAside w s) else lostAside w s := by
  have due : (s.watched w).lossDue = true := SourceState.lossDue_eq_true.2 ⟨m, hm, hle⟩
  have aside : (if s.sup.leaving = some w.source
      then { s.setWatched w .failed with sup := { (s.setWatched w .failed).sup with leaving := none } }
      else s.setWatched w .failed) = lostAside w s := by
    unfold lostAside
    split
    · cases w <;> rfl
    · cases w <;> rfl
  have list : (lostAside w s).sup.list = s.sup.list := s.setWatched_list w .failed
  rw [loseSource, if_pos due]
  dsimp only
  rw [if_neg hsel, aside, list]

end Due

end Loss

section LostAside

variable (w : Watched) (s : State)

theorem lostAside_frame : OnlyChanges [.sup] s (lostAside w s) := withSup_frame _ s

theorem lostAside_sup : (lostAside w s).sup = { s.sup with
    xo := (lostAside w s).sup.xo, ext := (lostAside w s).sup.ext
    leaving := if s.sup.leaving = some w.source then none else s.sup.leaving } := by
  cases w <;> rfl

theorem lostAside_watched (v : Watched) : (lostAside w s).watched v = if v = w then .failed else s.watched v := by
  rw [← State.setWatched_watched]
  cases v <;> rfl

/-- The lost head answers a wait with FALLBACK and its own state, FAILED (R35). -/
theorem fallbackReply_lostAside (h : s.sup.list.head? = some w.source) :
    fallbackReply (lostAside w s) = ⟨.fallback, [sourceCode s.sup.selected, 4]⟩ := by
  have state : (lostAside w s).sourceState w.source = .failed := by
    rw [State.sourceState_source, lostAside_watched, if_pos rfl]
  rw [fallbackReply_of_head (head := w.source) (by rw [lostAside_sup]; exact h), state, lostAside_sup]
  rfl

end LostAside

end Sys2Proof.Machine

namespace Sys2Proof.Proofs

open Sys2Proof.Machine

/-- Settles O49: the selected source fails over behind its bridge, another goes FAILED alone; the lost head ends a
wait. -/
theorem sourceLossFailsOver : Obligations.SourceLossFailsOver := by
  unfold Obligations.SourceLossFailsOver
  intro w levels s hr
  have event : exec (.sourceLoss w levels) s = .next (loseSource w levels s) := next_whileRunning hr
  refine ⟨fun h => by rw [event, loseSource_of_early h], fun m hm hle => ⟨fun hsel hwait => ?_, fun hsel => ?_⟩⟩
  · have bridged : Bridged m levels s (failedAfter w s (takeAdvance m levels s)) :=
      (failedAfter_frame w s (takeAdvance m levels s)).of_dressed (by simp)
    obtain ⟨retained, ports, power, pending⟩ := failedAfter_kept w s (takeAdvance m levels s)
    have posted := failedAfter_postedAll w s (takeAdvance m levels s) (takeAdvance_notices m levels s)
      (takeAdvance_setState m levels s)
    rw [event, loseSource_of_selected hm hle hsel hwait]
    refine ⟨_, rfl, bridged, retained, ?_, failedAfter_sup w s _, fun v hv => ?_, posted, ports, ?_, ?_⟩
    · rw [failedAfter_watched, if_pos rfl]
    · rw [failedAfter_watched, if_neg hv]
    · rw [power, takeAdvance_power]
    · rw [pending, takeAdvance_pending]
  · have aside := lostAside_frame w s
    obtain ⟨hend, hsup⟩ := endWait_frame (some (fallbackReply (lostAside w s))) (lostAside w s)
    have watched : ∀ v, (loseSource w levels s).watched v = if v = w then .failed else s.watched v := fun v => by
      rw [loseSource_of_other hm hle hsel, ← lostAside_watched]
      split
      · exact endWait_watched _ _ v
      · rfl
    rw [event]
    refine ⟨_, rfl, by rw [watched, if_pos rfl], fun v hv => by rw [watched, if_neg hv], fun hquiet => ?_,
      fun x op q hhead hx hp => ?_⟩
    · have unwaited : (lostAside w s).sup.wait = none ∨ s.sup.list.head? ≠ some w.source := by
        rw [lostAside_sup]
        exact hquiet.symm
      rw [loseSource_of_other hm hle hsel, endWaitIf_of_none unwaited]
      exact ⟨aside, lostAside_sup w s⟩
    · obtain ⟨others, own⟩ := endWait_ports (fallbackReply (lostAside w s)) (s := lostAside w s)
        (by rw [lostAside_sup]; exact hx) hp
      rw [fallbackReply_lostAside w s hhead] at others own hend hsup
      rw [loseSource_of_other hm hle hsel, if_pos hhead, fallbackReply_lostAside w s hhead]
      refine ⟨(aside.mono (by simp)).trans hend, ?_, others, own⟩
      rw [hsup, lostAside_sup]

end Sys2Proof.Proofs
end

section
/-! The reports of TIMER_STATUS, PIN_STATUS and SOURCE_STATUS: their presence bytes, and their absent fields as bytes 0
(R37, R58, R126, R181). -/

namespace Sys2Proof.Machine

/-! ### Fields -/

theorem byteOf_eq_ofNat (n : Nat) : byteOf n = [BitVec.ofNat 8 n] := by simp [byteOf, bytesOf]

theorem Field.bytes_always (bs : List Byte) : (Field.always bs).bytes = bs := rfl

/-- What is left at `now` of the time to the point `t`; one that a signed duration cannot hold is open (log 30). -/
def leftBytes (now : Nat) (t : Int) : List Byte :=
  if t - now < 9223372036854775808 then durationBytes (max 0 (t - now))
  else bytesOf 8 (Config.longRemaining (t - now).toNat).toNat

theorem remainingBytes_eq_leftBytes (t : Int) (now : Nat) : remainingBytes (remaining t now) = leftBytes now t := by
  have limit : remaining t now < durationLimit ↔ t - now < 9223372036854775808 := by
    have : durationLimit = 9223372036854775808 := rfl
    rw [remaining, this]
    omega
  rw [remainingBytes, leftBytes]
  refine ite_congr (propext limit) (fun _ => ?_) fun _ => rfl
  rw [remaining, Int.toNat_eq_max, max_comm]

/-- A deadline and what is left to it, both absent of an idle timer. -/
def deadlineBytes (now : Nat) : Option Arming → List Byte
  | some a => timeBytes (timeValue a.deadline) ++ leftBytes now a.deadline
  | none => List.replicate 17 0

theorem deadlineBytes_eq (now : Nat) (o : Option Arming) :
    Field.bytes (.maybe 9 ((o.map (·.deadline)).map fun d => timeBytes (timeValue d))) ++
      Field.bytes (.maybe 8 ((o.map (·.deadline)).map fun d => remainingBytes (remaining d now))) =
        deadlineBytes now o := by
  cases o with
  | none => rfl
  | some a => exact congrArg _ (remainingBytes_eq_leftBytes _ _)

/-- The end of a pulse and what is left to it, both absent without one. -/
def pulseBytes (now : Nat) : Option Int → List Byte
  | some e => timeBytes (timeValue e) ++ leftBytes now e
  | none => List.replicate 17 0

theorem pulseBytes_eq (now : Nat) (o : Option Int) :
    Field.bytes (.maybe 9 (o.map fun e => timeBytes (timeValue e))) ++
      Field.bytes (.maybe 8 (o.map fun e => remainingBytes (remaining e now))) = pulseBytes now o := by
  cases o with
  | none => rfl
  | some e => exact congrArg _ (remainingBytes_eq_leftBytes _ _)

/-! ### TIMER_STATUS (R58) -/

/-- The period of a timer, absent of a one-shot. -/
def TimerKind.period : TimerKind → Option Nat
  | .once => none
  | .periodic p => some p

theorem timerPresence (period action armed : Bool) : BitVec.ofNat 8 (bitsToNat [period, action, armed, armed]) =
    flagCode period + 2 * flagCode action + 12 * flagCode armed := by
  revert period action armed
  decide

theorem periodBytes_eq (o : Option Nat) :
    Field.bytes (.maybe 8 (o.map fun (p : Nat) => durationBytes (p : Int))) = durationBytes (o.getD 0 : Nat) := by
  cases o with
  | none => decide
  | some p => rfl

theorem actionBytes_eq (o : Option PinUse) :
    Field.bytes (.maybe 2 (o.map fun u => [BitVec.ofNat 8 u.pin.val, actionCode u.action])) =
      [(o.map fun u => BitVec.ofNat 8 u.pin.val).getD 0, (o.map fun u => actionCode u.action).getD 0] := by
  cases o <;> rfl

/-- The record of a timer as TIMER_STATUS reports it. -/
theorem timerBytes_eq (i : Slot) (x : Timer) (now : Nat) : timerBytes i x now =
    byteOf i.val ++ [hostCode (some x.owner), if x.armed.isSome then 2 else 1,
        flagCode x.kind.period.isSome + 2 * flagCode x.action.isSome + 12 * flagCode x.armed.isSome, kindCode x.kind,
        basisCode x.basis] ++ byteOf x.cls ++ [flagCode x.notify] ++ bytesOf 2 x.tag.toNat ++
      durationBytes (x.kind.period.getD 0 : Nat) ++
      [(x.action.map fun u => BitVec.ofNat 8 u.pin.val).getD 0,
        (x.action.map fun u => actionCode u.action).getD 0] ++
      deadlineBytes now x.armed ++ bytesOf 2 x.fire ++ bytesOf 2 x.missed := by
  have shown : timerBytes i x now = byteOf i.val ++ [hostCode (some x.owner), timerStateCode x.armed.isSome,
        BitVec.ofNat 8 (bitsToNat [x.kind.period.isSome, x.action.isSome, (x.armed.map (·.deadline)).isSome,
          (x.armed.map (·.deadline)).isSome]),
        kindCode x.kind, basisCode x.basis, BitVec.ofNat 8 x.cls, flagCode x.notify] ++ bytesOf 2 x.tag.toNat ++
      Field.bytes (.maybe 8 (x.kind.period.map fun (p : Nat) => durationBytes (p : Int))) ++
      Field.bytes (.maybe 2 (x.action.map fun u => [BitVec.ofNat 8 u.pin.val, actionCode u.action])) ++
      Field.bytes (.maybe 9 ((x.armed.map (·.deadline)).map fun d => timeBytes (timeValue d))) ++
      Field.bytes (.maybe 8 ((x.armed.map (·.deadline)).map fun d => remainingBytes (remaining d now))) ++
      runBytes x := rfl
  rw [shown, Option.isSome_map, timerPresence, periodBytes_eq, actionBytes_eq, ← deadlineBytes_eq,
    byteOf_eq_ofNat x.cls]
  simp [runBytes, timerStateCode]

/-! ### PIN_STATUS (R126) -/

/-- The last action on a pin, absent of one that has had none. -/
def lastBytes : Option LastAction → List Byte
  | some x => [lastActionCode x.action, actionOriginCode x.origin] ++ timeBytes x.time
  | none => List.replicate 11 0

theorem lastBytes_eq (o : Option LastAction) : Field.bytes (.maybe 11 (o.map lastActionBytes)) = lastBytes o := by
  cases o <;> rfl

theorem pinPresence (pulse last : Bool) : BitVec.ofNat 8 (bitsToNat [true, true, true, pulse, pulse, last]) =
    7 + 24 * flagCode pulse + 32 * flagCode last := by
  revert pulse last
  decide

section PinStatus

variable {pin : Byte} {p : PinId} {s : State}

theorem pinStatusAt_out_of_range (h : 4 ≤ pin.toNat) : pinStatusAt pin s = (s, .bare .range) := by
  rw [pinStatusAt, pinOf_out_of_range h]

theorem pinStatusAt_of_unbound (hp : pin.toNat = p.val) (hr : s.pin p = none) : pinStatusAt pin s =
    (s, .okWith (List.replicate 36 0 ++ byteOf (slotsNaming s p).length)) := by
  rw [pinStatusAt, pinOf_eq_some.2 hp]
  dsimp only
  rw [hr]
  rfl

theorem pinStatusAt_of_bound {r : PinRecord} (hp : pin.toNat = p.val) (hr : s.pin p = some r) :
    pinStatusAt pin s = (s, .okWith
      ([7 + 24 * flagCode r.pulseEnd.isSome + 32 * flagCode r.last.isSome, hostCode (some r.owner), 1,
          levelCode r.idle] ++ bytesOf 2 r.width ++ [levelCode r.level, flagCode r.pulseEnd.isSome] ++
        pulseBytes s.count.time r.pulseEnd ++ lastBytes r.last ++ byteOf (slotsNaming s p).length)) := by
  have shown : pinStatusAt pin s = (s, .okWith
      ([BitVec.ofNat 8 (bitsToNat [true, true, true, (r.pulseEnd.map fun e => timeBytes (timeValue e)).isSome,
          (r.pulseEnd.map fun e => remainingBytes (remaining e s.count.time)).isSome,
          (r.last.map lastActionBytes).isSome]), hostCode (some r.owner), 1, levelCode r.idle] ++
        bytesOf 2 r.width ++ [levelCode r.level, flagCode r.pulseEnd.isSome] ++
        Field.bytes (.maybe 9 (r.pulseEnd.map fun e => timeBytes (timeValue e))) ++
        Field.bytes (.maybe 8 (r.pulseEnd.map fun e => remainingBytes (remaining e s.count.time))) ++
        Field.bytes (.maybe 11 (r.last.map lastActionBytes)) ++ byteOf (slotsNaming s p).length)) := by
    rw [pinStatusAt, pinOf_eq_some.2 hp]
    dsimp only
    rw [hr]
    simp [payloadOfFields, presenceBits, Field.bytes, flagCode]
  rw [shown, Option.isSome_map, Option.isSome_map, Option.isSome_map, pinPresence, lastBytes_eq, ← pulseBytes_eq]
  simp

end PinStatus

/-! ### SOURCE_STATUS (R37) -/

theorem fourBytes_eq (o : Option Nat) : Field.bytes (.maybe 4 (o.map (bytesOf 4))) = bytesOf 4 (o.getD 0) := by
  cases o with
  | none => decide
  | some n => rfl

/-- The host of the wait and what is left of it, in milliseconds, rounded up, absent without one. -/
def waitBytes : Option Wait → List Byte
  | some w => hostCode (some w.host) ::
      bytesOf 4 ((200000000 * 4294967296 - w.elapsed + (1000000 * 4294967296 - 1)) / (1000000 * 4294967296))
  | none => List.replicate 5 0

theorem waitBytes_eq (o : Option Wait) : Field.bytes (.maybe 5 (o.map fun w =>
    hostCode (some w.host) :: bytesOf 4 (remainingUp (1000000 * fine) waitLength w.elapsed))) = waitBytes o := by
  cases o <;> rfl

theorem sourcePresence (a b c d e : Bool) : BitVec.ofNat 8 (bitsToNat [a, b, c, d, e]) =
    (if a then 1 else 0) + (if b then 2 else 0) + (if c then 4 else 0) + (if d then 8 else 0) +
      (if e then 16 else 0) := by
  revert a b c d e
  decide

theorem sourceStatusAt_eq (s : State) : sourceStatusAt s = (s, .okWith
    ([(if (windowRemaining s.sup.xo).isSome then 1 else 0) + (if (windowRemaining s.sup.ext).isSome then 2 else 0) +
        (if (holdOffRemaining s.sup.xo).isSome then 4 else 0) + (if (holdOffRemaining s.sup.ext).isSome then 8 else 0) +
        (if s.sup.wait.isSome then 16 else 0),
        sourceStateCode s.sup.xo, sourceStateCode s.sup.ext, 3] ++
      bytesOf 4 ((windowRemaining s.sup.xo).getD 0) ++ bytesOf 4 ((windowRemaining s.sup.ext).getD 0) ++
      bytesOf 4 ((holdOffRemaining s.sup.xo).getD 0) ++ bytesOf 4 ((holdOffRemaining s.sup.ext).getD 0) ++
      listBytes s.sup.list ++ [sourceCode s.sup.selected, flagCode (holdover s)] ++
      signedBytes 4 s.sup.trims.xo ++ signedBytes 4 s.sup.trims.ext ++ signedBytes 4 s.sup.trims.rc ++
      waitBytes s.sup.wait)) := by
  have rc : sourceStateCode (s.sourceState .rc) = 3 := rfl
  rw [← sourcePresence, ← fourBytes_eq, ← fourBytes_eq, ← fourBytes_eq, ← fourBytes_eq, ← waitBytes_eq]
  simp [sourceStatusAt, payloadOfFields, presenceBits, Field.bytes_always, rc]

end Sys2Proof.Machine

namespace Sys2Proof.Proofs

open Sys2Proof.Machine

/-- Settles O43: report by report, each field as the model sends it. -/
theorem statusReads : Obligations.StatusReads := by
  unfold Obligations.StatusReads
  intro h q s
  refine ⟨fun ht slot i x hi hx ho => ?_, fun ht pin => ⟨fun hout => ?_, fun p hp => ⟨fun hr => ?_, fun r hr => ?_⟩⟩,
    fun ht => ?_⟩
  · have report : timerStatusAt h slot (requestTaken h q (.timerStatus slot) s) =
        (requestTaken h q (.timerStatus slot) s, .okWith (timerBytes i x s.count.time ++ countBytes h s)) := by
      rw [timerStatusAt, ownedTimer_of_owner (s := requestTaken h q (.timerStatus slot) s) hi hx ho]
      rfl
    rw [timerBytes_eq, countBytes, ← List.append_assoc, ho] at report
    exact boxRequest_unchanged (r := .timerStatus slot) ht rfl rfl (congrArg atOnce report)
  · exact boxRequest_unchanged (r := .pinStatus pin) ht rfl rfl (congrArg atOnce (pinStatusAt_out_of_range hout))
  · exact boxRequest_unchanged (r := .pinStatus pin) ht rfl rfl
      (congrArg atOnce (pinStatusAt_of_unbound (s := requestTaken h q (.pinStatus pin) s) hp hr))
  · exact boxRequest_unchanged (r := .pinStatus pin) ht rfl rfl
      (congrArg atOnce (pinStatusAt_of_bound (s := requestTaken h q (.pinStatus pin) s) hp hr))
  · exact boxRequest_unchanged (r := .sourceStatus) ht rfl rfl
      (congrArg atOnce (sourceStatusAt_eq (requestTaken h q .sourceStatus s)))

end Sys2Proof.Proofs
end

section
/-! SET_SOURCES: which lists it takes, and the store of a list with its bridge, its selection and its wait (R30, R33 to
R35, R172, R180). -/

namespace Sys2Proof.Machine

/-! ### The list of a request (R33, R180) -/

/-- The entries that the count of a request covers. -/
def listEntries (v : ListArg) : List Byte := [v.first, v.second, v.third].take v.count.toNat

theorem sourceCode_injective : Function.Injective sourceCode := fun x y h => by
  have hx := sourceOf_eq_some.2 (rfl : sourceCode x = sourceCode x)
  rw [h, sourceOf_eq_some.2 rfl] at hx
  exact (Option.some.inj hx).symm

theorem listOf_eq_some {v : ListArg} {l : List Source} : listOf v = some l ↔
    (1 ≤ v.count.toNat ∧ v.count.toNat ≤ 3) ∧ listEntries v = l.map sourceCode ∧ l.Nodup := by
  unfold listOf
  dsimp only
  split
  · next hcount =>
    rw [and_iff_right hcount, ← mapM_sourceOf_eq_some, listEntries]
    split
    · next sources hs =>
      rw [hs]
      split
      · next hn =>
        constructor
        · rintro ⟨⟩
          exact ⟨rfl, hn⟩
        · rintro ⟨⟨⟩, -⟩
          rfl
      · next hn =>
        refine iff_of_false nofun ?_
        rintro ⟨⟨⟩, hl⟩
        exact hn hl
    · next hs => exact iff_of_false nofun fun ⟨c, _⟩ => by rw [hs] at c; cases c
  · next hcount => exact iff_of_false nofun fun ⟨c, _⟩ => hcount c

/-- A list with a count, an entry or a repeat that SET_SOURCES refuses. -/
theorem listOf_eq_none {v : ListArg} (h : v.count = 0 ∨ 3 < v.count.toNat ∨
    (∃ b ∈ listEntries v, b = 0 ∨ 3 < b.toNat) ∨ ¬(listEntries v).Nodup) : listOf v = none := by
  cases hl : listOf v with
  | none => rfl
  | some l =>
    obtain ⟨⟨hlo, hhi⟩, hentries, hnodup⟩ := listOf_eq_some.1 hl
    rw [hentries] at h
    rcases h with h | h | ⟨b, hb, h⟩ | h
    · rw [h] at hlo
      exact absurd hlo (by decide)
    · exact absurd hhi (Nat.not_le.2 h)
    · obtain ⟨x, -, rfl⟩ := List.mem_map.1 hb
      have named := sourceOf_eq_none.2 h
      rw [sourceOf_eq_some.2 rfl] at named
      cases named
    · exact absurd (hnodup.map sourceCode_injective) h

theorem listOf_of_list {v : ListArg} {l : List Source} {head : Source} (hlen : l.length = v.count.toNat)
    (hentries : l.map sourceCode = listEntries v) (hnodup : l.Nodup) (hhead : l.head? = some head) :
    listOf v = some l := by
  have short : (listEntries v).length ≤ 3 := by simp [listEntries]
  have long : 1 ≤ l.length := by
    cases l with
    | nil => cases hhead
    | cons x l => simp
  rw [← hentries, List.length_map] at short
  exact listOf_eq_some.2 ⟨⟨hlen ▸ long, hlen ▸ short⟩, hentries.symm, hnodup⟩

/-! ### What a store takes OFF, and its bridge (R30) -/

theorem storeList_sourceState (l : List Source) (s : State) (x : Source) :
    (storeList l s).sourceState x = stateUnder l s x := by
  cases x <;> simp [storeList, stateUnder, State.sourceState, SourceState.underList]

section Bridge

variable (l : List Source) (levels : Quad Level) (s : State)

/-- The store takes the selected source OFF. -/
def selectedOff : Bool := stateUnder l s s.sup.selected = .off

/-- The store takes OFF a source being left. -/
def leftOff : Bool := s.sup.leaving.any fun x => stateUnder l s x = .off

/-- The source whose last edge a bridge of the store starts from. -/
def lastDriver : Source := if selectedOff l s then s.sup.selected else s.sup.leaving.getD s.sup.selected

/-- The bridge of the store. -/
def storedBridge : Nat := (s.sourceState (lastDriver l s)).sinceEdge.getD 0

/-- `s` behind the bridge of the store, if it takes one. -/
def behindBridge : State := if selectedOff l s || leftOff l s then takeAdvance (storedBridge l s) levels s else s

/-- The supervisor behind the bridge. -/
def bridgedSup : Supervisor :=
  { (storeList l s).sup with leaving := if selectedOff l s || leftOff l s then none else s.sup.leaving }

/-- `s` with the list stored and the bridge taken, its ports being `p`. -/
def bridgedStore (p : PerHost Port) : State :=
  (behindBridge l levels s).dressed (bridgedSup l s) p fun r => { r with list := l }

theorem behindBridge_of_off (h : (selectedOff l s || leftOff l s) = true) :
    behindBridge l levels s = takeAdvance (storedBridge l s) levels s := if_pos h

theorem behindBridge_of_on (h : (selectedOff l s || leftOff l s) = false) : behindBridge l levels s = s :=
  if_neg (by simp [h])

/-- What a bridge leaves. -/
theorem behindBridge_kept : (behindBridge l levels s).notices = s.notices ∧ (behindBridge l levels s).power = s.power ∧
    (behindBridge l levels s).pending = s.pending ∧
    (behindBridge l levels s).count.setState = s.count.setState := by
  cases h : selectedOff l s || leftOff l s with
  | false =>
    rw [behindBridge_of_on l levels s h]
    exact ⟨rfl, rfl, rfl, rfl⟩
  | true =>
    rw [behindBridge_of_off l levels s h]
    exact ⟨takeAdvance_notices _ _ _, takeAdvance_power _ _ _, takeAdvance_pending _ _ _, takeAdvance_setState _ _ _⟩

theorem bridgedSource_storeList : bridgedSource s (storeList l s) =
    if selectedOff l s || leftOff l s then some (lastDriver l s) else none := by
  unfold bridgedSource selectedOff leftOff lastDriver selectedOff
  simp only [storeList_sourceState]
  by_cases hsel : stateUnder l s s.sup.selected = .off
  · simp [hsel]
  · cases hleft : s.sup.leaving with
    | none => simp [hsel]
    | some x => by_cases hx : stateUnder l s x = .off <;> simp [hsel, hx, Option.filter_some]

theorem bridgedSource_setPort (h : HostId) (p : Port) :
    bridgedSource (s.setPort h p) (storeList l (s.setPort h p)) = bridgedSource s (storeList l s) := rfl

/-- The bridge of a store made by a request, which works on its port beside (R30). -/
theorem storeBridge_setPort (h : HostId) (p : Port) :
    storeBridge (s.setPort h p) levels (storeList l (s.setPort h p)) =
      bridgedStore l levels s (s.setPort h p).ports := by
  have left : LeavesCount fun r => { r with list := l } := fun _ _ _ => rfl
  unfold storeBridge
  rw [bridgedSource_setPort, bridgedSource_storeList]
  cases hoff : selectedOff l s || leftOff l s with
  | false =>
    rw [bridgedStore, behindBridge_of_on l levels s hoff, bridgedSup, hoff]
    rfl
  | true =>
    rw [bridgedStore, behindBridge_of_off l levels s hoff, ← takeAdvance_dressed _ _ left, bridgedSup, hoff]
    rfl

end Bridge

/-! ### The selection of a store (R34) -/

theorem storeSelection_congr {s t : State} (h : t.sup = s.sup) : storeSelection t = storeSelection s := by
  have states : ∀ x, t.sourceState x = s.sourceState x := State.sourceState_congr (by rw [h]) (by rw [h])
  simp only [storeSelection, h, states, firstQualified_congr h]

section Selection

variable (l : List Source) (levels : Quad Level) (s : State) (x : Source)

/-- The source that drives the count behind the bridge. -/
def driverBehind : Source := if leftOff l s then s.sup.selected else s.sup.leaving.getD s.sup.selected

theorem bridgedStore_sup (p : PerHost Port) : (bridgedStore l levels s p).sup = bridgedSup l s := rfl

theorem bridgedStore_sourceState (p : PerHost Port) (y : Source) :
    (bridgedStore l levels s p).sourceState y = stateUnder l s y := by
  rw [← storeList_sourceState]
  exact State.sourceState_congr rfl rfl y

/-- The selection of a store leaves the source that drives the count, unless the store takes it OFF. -/
theorem selectAtStore_sup (h : HostId) (p : Port) :
    (selectAtStore (s.setPort h p) x (bridgedStore l levels s (s.setPort h p).ports)).sup =
      { (storeList l s).sup with
        selected := x
        leaving := if selectedOff l s = true ∨ driverBehind l s = x then none else some (driverBehind l s) } := by
  have off : (bridgedStore l levels s (s.setPort h p).ports).sourceState (s.setPort h p).sup.selected = .off ↔
      selectedOff l s = true := by
    rw [bridgedStore_sourceState]
    exact decide_eq_true_iff.symm
  rw [selectAtStore, postAll_sup]
  dsimp only
  by_cases hsel : selectedOff l s = true
  · simp only [off.2 hsel, hsel, decide_true, true_or, if_true]
    rfl
  · have driving : driver (bridgedStore l levels s (s.setPort h p).ports) = driverBehind l s := by
      rw [driver, bridgedStore_sup, bridgedSup, driverBehind, Bool.eq_false_iff.2 hsel, Bool.false_or]
      cases leftOff l s <;> rfl
    simp only [mt off.1 hsel, hsel, decide_false, Bool.false_eq_true, if_false, false_or, switchTo_leaving, driving]
    rfl

/-- The SOURCE notice of the selection, at every host that was attached before the store (R31). -/
theorem selectAtStore_postedAll (h : HostId) (p : Port) (hp : p.attached = (s.port h).attached) :
    PostedAll (systemNotice .source (if Config.storeStampAfterBridge
        then (selectAtStore (s.setPort h p) x (bridgedStore l levels s (s.setPort h p).ports)).count.time
        else s.count.time) none (some (.source x .command))
      ⟨false, l.head? ≠ some x, s.count.setState = .retained, false⟩) s
      (selectAtStore (s.setPort h p) x (bridgedStore l levels s (s.setPort h p).ports)) := by
  obtain ⟨hnotices, -, -, hset⟩ := behindBridge_kept l levels s
  obtain ⟨hcount, -⟩ := selectAtStore_frame (s.setPort h p) x (bridgedStore l levels s (s.setPort h p).ports)
  have posted : ∀ (before u : State) (g : HostId), (selectAtStore before x u).box g =
      if u.attached g = true then (u.box g).post (systemNotice .source
          (if Config.storeStampAfterBridge then u.count.time else before.count.time) none (some (.source x .command))
          ⟨false, u.sup.list.head? ≠ some x, u.count.setState = .retained, false⟩) else u.box g := fun before u g =>
    postAll_postedAll _ _ g
  intro g
  have attached : (bridgedStore l levels s (s.setPort h p).ports).attached g = s.attached g := by
    show (s.setPort h p).attached g = _
    rw [State.setPort_attached]
    split
    · next e => rw [hp, e]; rfl
    · rfl
  have box : (bridgedStore l levels s (s.setPort h p).ports).box g = s.box g := congrArg (PerHost.get · g) hnotices
  have set : (bridgedStore l levels s (s.setPort h p).ports).count.setState = s.count.setState := hset
  have list : (bridgedStore l levels s (s.setPort h p).ports).sup.list = l := rfl
  rw [posted, attached, box, set, list, hcount (by simp)]
  rfl

/-! ### The whole store (R33, R34) -/

/-- What stands behind the bridge apart from the supervisor, the notices and the ports. -/
theorem bridgedStore_kept {p : PerHost Port} {t : State}
    (ht : OnlyChanges [.sup, .notices] (bridgedStore l levels s p) t) :
    ((selectedOff l s || leftOff l s) = true → Bridged (storedBridge l s) levels s t ∧
      t.retained = (takeAdvance (storedBridge l s) levels s).retained.map fun r => { r with list := l }) ∧
    ((selectedOff l s || leftOff l s) = false → OnlyChanges [.sup, .notices, .ports, .retained] s t ∧
      t.retained = s.retained.map fun r => { r with list := l }) ∧
    t.power = s.power ∧ t.pending = s.pending := by
  obtain ⟨-, hpower, hpending, -⟩ := behindBridge_kept l levels s
  have parts := ht.of_dressed (by simp)
  obtain ⟨-, -, -, -, -, -, -, -, hret, hpow, hpend⟩ := ht
  refine ⟨fun hoff => ?_, fun hon => ?_, (hpow (by simp)).trans hpower, hpend.trans hpending⟩
  · have retained := hret (by simp)
    rw [bridgedStore, behindBridge_of_off l levels s hoff] at retained
    rw [behindBridge_of_off l levels s hoff] at parts
    exact ⟨parts, retained⟩
  · have retained := hret (by simp)
    rw [bridgedStore, behindBridge_of_on l levels s hon] at retained
    rw [behindBridge_of_on l levels s hon] at parts
    obtain ⟨hcount, hpool, hauth, hpins, hcap⟩ := parts
    refine ⟨?_, retained⟩
    have hpow' := (hpow (by simp)).trans hpower
    have hpend' := hpend.trans hpending
    simp [OnlyChanges, hcount, hpool, hauth, hpins, hcap, hpow', hpend']

/-- A list stored by a request, with what the store selects. -/
theorem listStored_stored (h g : HostId) (p : Port) (hp : p.attached = (s.port h).attached) :
    Stored l (storeSelection (storeList l s)) false g levels s (listStored l levels (s.setPort h p)) := by
  have same : storeSelection (storeList l (s.setPort h p)) = storeSelection (storeList l s) := storeSelection_congr rfl
  cases hsel : storeSelection (storeList l s) with
  | none =>
    rw [listStored_of_none (same.trans hsel), storeBridge_setPort]
    obtain ⟨hoff, hon, hpower, hpending⟩ :=
      bridgedStore_kept l levels s (OnlyChanges.refl _ (bridgedStore l levels s (s.setPort h p).ports))
    obtain ⟨hnotices, -⟩ := behindBridge_kept l levels s
    exact ⟨rfl, storeList_sourceState l s .xo, storeList_sourceState l s .ext, rfl, rfl, rfl, rfl, rfl, hoff, hon,
      hnotices, hpower, hpending⟩
  | some x =>
    rw [listStored_of_some (same.trans hsel), storeBridge_setPort]
    obtain ⟨hoff, hon, hpower, hpending⟩ := bridgedStore_kept l levels s
      (selectAtStore_frame (s.setPort h p) x (bridgedStore l levels s (s.setPort h p).ports))
    have hsup := selectAtStore_sup l levels s x h p
    have hpost := selectAtStore_postedAll l levels s x h p hp
    generalize selectAtStore (s.setPort h p) x (bridgedStore l levels s (s.setPort h p).ports) = t at *
    exact ⟨congrArg Supervisor.list hsup, (congrArg Supervisor.xo hsup).trans (storeList_sourceState l s .xo),
      (congrArg Supervisor.ext hsup).trans (storeList_sourceState l s .ext), by rw [hsup]; rfl,
      congrArg Supervisor.startUp hsup, congrArg Supervisor.selected hsup, by rw [hsup]; rfl,
      congrArg Supervisor.leaving hsup, hoff, hon, hpost, hpower, hpending⟩

end Selection

section StoreSelection

variable {s : State} {head : Source} (hhead : s.sup.list.head? = some head)

include hhead

/-- The head is selected already. -/
theorem storeSelection_of_selected (h : head = s.sup.selected) : storeSelection s = none := by
  unfold storeSelection
  simp only [hhead, if_pos h]

variable (hne : head ≠ s.sup.selected)

include hne

/-- A QUALIFIED head is selected. -/
theorem storeSelection_of_head (hq : (s.sourceState head).isQualified = true) : storeSelection s = some head := by
  unfold storeSelection
  simp only [hhead, if_neg hne, if_pos hq]

variable (hq : (s.sourceState head).isQualified = false)

include hq

/-- The selected source is no longer named. -/
theorem storeSelection_of_unnamed (h : s.sup.selected ∉ effectiveList s.sup.list) :
    storeSelection s = some (firstQualified s) := by
  unfold storeSelection
  simp only [hhead, if_neg hne, hq, Bool.false_eq_true, if_false, if_pos h]

/-- The selected source is still named: an earlier one with its hold-off elapsed is selected. -/
theorem storeSelection_of_named (h : s.sup.selected ∈ effectiveList s.sup.list) : storeSelection s =
    (effectiveList s.sup.list).find? fun y =>
      standsEarlier s.sup.list y s.sup.selected && (s.sourceState y).holdOffElapsed := by
  unfold storeSelection
  simp only [hhead, if_neg hne, hq, Bool.false_eq_true, if_false, if_neg (not_not_intro h)]

end StoreSelection

/-! ### The request -/

section Request

variable {l : List Source} {chosen : Option Source} {g h : HostId} {q : Byte} {v : ListArg} {levels : Quad Level}
  {s t : State}

/-- An answer held at a port is no matter to the store. -/
theorem Stored.holdAnswer {op : Byte} {x : Reply} (ht : Stored l chosen false g levels s t) :
    Stored l chosen false g levels s (holdAnswer h op q x t) := by
  obtain ⟨hlist, hxo, hext, htrims, hstart, hsel, hwait, hleave, hoff, hon, hnotices, hpower, hpending⟩ := ht
  refine ⟨hlist, hxo, hext, htrims, hstart, hsel, hwait, hleave, hoff, fun c => ?_, ?_, hpower, hpending⟩
  · obtain ⟨hf, hret⟩ := hon c
    exact ⟨hf.trans ((setPort_frame _ _ _).mono (by simp)), hret⟩
  · cases chosen with
    | none => exact hnotices
    | some x => exact hnotices

/-- The wait of a store starts (R35). -/
theorem Stored.waitStarted (ht : Stored l chosen false g levels s t) :
    Stored l chosen true g levels s (waitStarted g t) := by
  obtain ⟨hlist, hxo, hext, htrims, hstart, hsel, -, hleave, hoff, hon, hnotices, hpower, hpending⟩ := ht
  refine ⟨hlist, hxo, hext, htrims, hstart, hsel, rfl, hleave, hoff, fun c => ?_, ?_, hpower, hpending⟩
  · obtain ⟨hf, hret⟩ := hon c
    exact ⟨hf.trans ((withSup_frame _ _).mono (by simp)), hret⟩
  · cases chosen with
    | none => exact hnotices
    | some x => exact hnotices

theorem Stored.selected {waits : Bool} (ht : Stored l chosen waits g levels s t) :
    t.sup.selected = chosen.getD s.sup.selected := by
  obtain ⟨-, -, -, -, -, hsel, -⟩ := ht
  exact hsel

/-- The state that carrying out SET_SOURCES leaves, before its answer or its wait. -/
theorem listStored_requestTaken (hl : storeSelection (storeList l s) = chosen) :
    Stored l chosen false h levels s (listStored l levels (requestTaken h q (.setSources v) s)) ∧
      (listStored l levels (requestTaken h q (.setSources v) s)).ports =
        (requestTaken h q (.setSources v) s).ports := by
  obtain ⟨hports, -⟩ := listStored_waitsKept l levels (requestTaken h q (.setSources v) s)
  exact ⟨hl ▸ listStored_stored l levels s h h _ rfl, hports⟩

/-- A store after which the head is selected answers OK (R34). -/
theorem setSources_answered (ht : TakesAsHolder h 0x21 q s) (hl : listOf v = some l)
    (hsel : storeSelection (storeList l s) = chosen) (hhead : l.head? = some (chosen.getD s.sup.selected)) :
    ∃ t, exec (.setSources h q v levels) s = .next t ∧ Stored l chosen false h levels s t ∧ PortFrame h s t ∧
      Answers h 0x21 q .ok [sourceCode (chosen.getD s.sup.selected)] t := by
  obtain ⟨⟨hr, ha⟩, hh⟩ := ht
  obtain ⟨stored, ports⟩ := listStored_requestTaken (h := h) (q := q) (v := v) (levels := levels) hsel
  have carried := setSourcesAt_of_selected (h := h) (s := requestTaken h q (.setSources v) s) (levels := levels) hl
    (hhead.trans (congrArg some stored.selected.symm))
  rw [selectedReply, stored.selected] at carried
  have row := requestRow_answered (r := .setSources v) hr rfl (.inl ha) (fun _ => hh) carried
  generalize listStored l levels (requestTaken h q (.setSources v) s) = t at *
  have port : ∀ k, t.port k = (requestTaken h q (.setSources v) s).port k := fun k => by
    rw [State.port, ports, State.port]
  obtain ⟨hf, hn⟩ := requestTaken_flags h q (.setSources v) s
  refine ⟨_, congrArg Host.Outcome.next row, stored.holdAnswer, ⟨fun k hk => ?_, ?_, ?_⟩,
    answers_holdAnswer (by rw [port]; exact hf) (by rw [port]; exact hn)⟩
  · rw [holdAnswer_port, if_neg hk, port, requestTaken_port, if_neg hk]
  · rw [holdAnswer_attached, State.attached, port]
    exact requestTaken_attached h q _ s h
  · rw [holdAnswer_port, if_pos rfl, port, requestTaken_port, if_pos rfl]

/-- Any other store starts a wait, its port WORKING (R34, R35). -/
theorem setSources_waiting (ht : TakesAsHolder h 0x21 q s) (hl : listOf v = some l)
    (hsel : storeSelection (storeList l s) = chosen) (hhead : l.head? ≠ some (chosen.getD s.sup.selected)) :
    ∃ t, exec (.setSources h q v levels) s = .next t ∧ Stored l chosen true h levels s t ∧ PortFrame h s t ∧
      t.port h = { s.port h with
        phase := .working 0x21 q, refused := false, runt := false, shifted := (t.port h).shifted } := by
  obtain ⟨⟨hr, ha⟩, hh⟩ := ht
  obtain ⟨stored, ports⟩ := listStored_requestTaken (h := h) (q := q) (v := v) (levels := levels) hsel
  have carried := setSourcesAt_of_wait (h := h) (s := requestTaken h q (.setSources v) s) (levels := levels) hl
    (fun c => hhead (c.trans (congrArg some stored.selected)))
  have row : exec (.setSources h q v levels) s =
      .next (waitStarted h (listStored l levels (requestTaken h q (.setSources v) s))) := by
    show Host.Outcome.next (requestRow h q (.setSources v) levels s) = _
    rw [requestRow_of_ready (r := .setSources v) hr,
      validate_of_pass (r := .setSources v) rfl (.inl (by simpa using ha)) (fun _ => by simpa using hh), carryOut,
      carried]
    rfl
  generalize listStored l levels (requestTaken h q (.setSources v) s) = t at *
  have port : ∀ k, (waitStarted h t).port k = (requestTaken h q (.setSources v) s).port k := fun k =>
    congrArg (PerHost.get · k) ports
  refine ⟨_, row, stored.waitStarted, ⟨fun k hk => ?_, ?_, ?_⟩, ?_⟩
  · rw [port, requestTaken_port, if_neg hk]
  · rw [State.attached, port]
    exact requestTaken_attached h q _ s h
  · rw [port, requestTaken_port, if_pos rfl]
  · rw [port, requestTaken_port, if_pos rfl]
    rfl

end Request

end Sys2Proof.Machine

namespace Sys2Proof.Proofs

open Sys2Proof.Machine

/-- Settles O53: by whether the list is taken, and by the cases of R34 for the source that the store selects. -/
theorem setSourcesStoresAndSelects : Obligations.SetSourcesStoresAndSelects := by
  unfold Obligations.SetSourcesStoresAndSelects
  intro h q v levels s ht
  refine ⟨fun hbad => ?_, fun l head hlen hentries hnodup hhead => ?_⟩
  · obtain ⟨hr, hh⟩ := ht
    obtain ⟨e, hf, hx⟩ := takes_held (r := .setSources v) (levels := levels) hr rfl (fun _ => hh)
      (setSourcesAt_of_none (listOf_eq_none hbad)) (.refl [] _) (by simp)
    exact ⟨_, e, hf, hx⟩
  · have hl : listOf v = some l := listOf_of_list hlen hentries hnodup hhead
    have state := storeList_sourceState l s
    have other : ∀ x, (stateUnder l s head).isQualified = false → (stateUnder l s x).isQualified = true →
        l.head? ≠ some x := fun x hq hx c => by
      cases hhead.symm.trans c
      cases hq.symm.trans hx
    refine ⟨fun hsel => ?_, fun hne hq => ?_, fun hne hq => ⟨fun hout x hx => ?_, fun hin => ?_⟩⟩
    · have answered := setSources_answered (levels := levels) ht hl (storeSelection_of_selected hhead hsel)
        (hsel ▸ hhead)
      rw [Option.getD_none, ← hsel] at answered
      exact answered
    · exact setSources_answered ht hl (storeSelection_of_head hhead hne ((state head).symm ▸ hq)) hhead
    · have first : storeSelection (storeList l s) = some x := by
        rw [storeSelection_of_unnamed (s := storeList l s) hhead hne (by rw [state]; exact hq) hout, firstQualified]
        simp only [state]
        exact congrArg (fun o => some (Option.getD o .rc)) hx
      have qualified := List.find?_some (p := fun y => (stateUnder l s y).isQualified) hx
      exact setSources_waiting ht hl first (other x hq qualified)
    · have selects := storeSelection_of_named (s := storeList l s) hhead hne (by rw [state]; exact hq) hin
      simp only [state] at selects
      refine ⟨fun x hx => setSources_waiting ht hl (selects.trans hx) (other x hq ?_), fun hx =>
        setSources_waiting ht hl (selects.trans hx) fun c => hne (Option.some.inj (hhead.symm.trans c))⟩
      have earlier := List.find?_some hx
      rw [Bool.and_eq_true] at earlier
      obtain ⟨-, elapsed⟩ := earlier
      exact SourceState.isQualified_of_holdOffElapsed elapsed

end Sys2Proof.Proofs
end
